-- ==== Sys2Proof/Word.lean ====
section
/-! DEFINITION. The words of HUFFCORE: bytes, bits, command words, counts, weights, node ids, codes
(spec/00_scope.md rules R3 and R5, spec/10_state.md rules R20 to R23). -/

namespace Sys2Proof

/-- A symbol, SYM_W = 8 bits (R3). -/
abbrev Byte := BitVec 8

/-- A bit, 0 or 1 (R5): `false` is 0, `true` is 1. -/
abbrev Bit := Bool

/-- A command word, CMD_W = 16 bits (R3, R60). -/
abbrev CmdWord := BitVec 16

/-- The original length, LEN_W = 64 bits (R3, R12). -/
abbrev Len := BitVec 64

/-- One frequency counter, CNT_W = 64 bits (R3, R20). -/
abbrev Count := BitVec 64

/-- A node weight, WEIGHT_W = 72 bits (R3, R21). -/
abbrev Weight := BitVec 72

/-- A node id, 0..510 (R3, R22): the 9-bit field can name no other node of the arena. -/
abbrev NodeId := Fin 511

/-- A code: a bit sequence, the edge leaving the root first (R5, R23). -/
abbrev Code := List Bit

end Sys2Proof
end

