-- ==== Sys2Proof/Syntax.lean ====
section
/-! DEFINITION. The syntax of HUFFCORE: the 23 commands of spec/30_encoding.md rule R62 and the assembler
lines of rules R66 and R67. -/

namespace Sys2Proof

/-- The commands, one constructor per row of spec/opcode_table.json (R62). The operands are those of R61:
`imm8` of format B, `imm1` of format T; every other operand is implicit. -/
inductive Instr where
  | nop
  | iclr
  | ipush (imm8 : Byte)
  | bclr
  | bpush (imm1 : Bit)
  | eclr
  | srst
  | flatten
  | pack
  | enclen
  | declen
  | fnew
  | feed (imm8 : Byte)
  | finalize
  | build
  | gentable
  | serialize
  | deserialize
  | encode
  | compress
  | assemble
  | decode
  | decompress
  deriving DecidableEq, Repr

/-- The three command formats of R60. -/
inductive Format where
  /-- No operand: bits 7:0 are 0. -/
  | n
  /-- One byte operand in bits 7:0. -/
  | b
  /-- One bit operand in bit 0; bits 7:1 are 0. -/
  | t
  deriving DecidableEq, Repr

/-- The format of a command (R62). -/
def Instr.format : Instr → Format
  | .ipush _ => .b
  | .feed _ => .b
  | .bpush _ => .t
  | .nop => .n
  | .iclr => .n
  | .bclr => .n
  | .eclr => .n
  | .srst => .n
  | .flatten => .n
  | .pack => .n
  | .enclen => .n
  | .declen => .n
  | .fnew => .n
  | .finalize => .n
  | .build => .n
  | .gentable => .n
  | .serialize => .n
  | .deserialize => .n
  | .encode => .n
  | .compress => .n
  | .assemble => .n
  | .decode => .n
  | .decompress => .n

/-- One line of an assembler program (R66, R67), operands as the numbers written: a command without an
operand, a command with one, the host directive `SETLEN`, or a pseudo-instruction. A number may be too
large for its operand: `AsmLine.wellFormed` checks that. -/
inductive AsmLine where
  /-- A format N command, given as the command it names. -/
  | plain (i : Instr)
  | ipush (n : Nat)
  | feed (n : Nat)
  | bpush (n : Nat)
  | setlen (n : Nat)
  | loadi (bytes : List Nat)
  | loadb (bits : List Nat)
  | feeds (bytes : List Nat)
  | count (bytes : List Nat)
  | compressc
  deriving DecidableEq, Repr

end Sys2Proof
end

