-- ==== Sys2Proof/WellFormed.lean ====
section
/-! DEFINITION. Well-formedness of commands (spec/30_encoding.md rules R60, R61) and of assembler lines
(rule R66). The operand types of `Instr` admit exactly the operands the formats can carry, so a command
is well formed by its type; an assembler line writes numbers, and those are checked. -/

namespace Sys2Proof

/-- A command is well formed: `imm8` is any byte and `imm1` any bit (R60, R61), which the operand types
already say, so no check is left for any constructor. -/
def Instr.wellFormed (i : Instr) : Bool :=
  match i.format with
  | .n => true
  | .b => true
  | .t => true

/-- A number an assembler line writes as a byte: `0x41` or `65`, 0..255 (R66). -/
def isByteOperand (n : Nat) : Bool := n < 256

/-- A number an assembler line writes as a bit: `0` or `1` (R66). -/
def isBitOperand (n : Nat) : Bool := n < 2

/-- An assembler line is well formed (R66, R67): a line without an operand names a format N command, a
byte operand is below 256, a bit operand below 2, the operand of `SETLEN` below 2^64. `LOADI` and
`LOADB` may have no operands (R67); that `FEEDS` and `COUNT` may too is the model's choice (DESIGN CHOICE, log
entry 24). -/
def AsmLine.wellFormed : AsmLine → Bool
  | .plain i => i.format == .n
  | .ipush n => isByteOperand n
  | .feed n => isByteOperand n
  | .bpush n => isBitOperand n
  | .setlen n => decide (n < 2 ^ 64)
  | .loadi bytes => bytes.all isByteOperand
  | .loadb bits => bits.all isBitOperand
  | .feeds bytes => bytes.all isByteOperand
  | .count bytes => bytes.all isByteOperand
  | .compressc => true

end Sys2Proof
end

