-- ==== Sys2Proof/Decode.lean ====
section
/-! DEFINITION. The command decoder and encoder (spec/30_encoding.md rules R60 to R65). -/

namespace Sys2Proof

/-- `opcode = w[15:8]` (R61). -/
def opcodeOf (w : CmdWord) : BitVec 8 := w.extractLsb' 8 8

/-- `w[7:0]`: `imm8` of format B, the bits that must be 0 in format N (R60, R61). -/
def lowByteOf (w : CmdWord) : Byte := w.extractLsb' 0 8

/-- Format N: the command, when bits 7:0 are 0 (R60, R64). -/
def decodeN (low : Byte) (i : Instr) : Option Instr :=
  if low = 0#8 then some i else none

/-- Format T: the command with its bit, when bits 7:1 are 0 (R60, R64). -/
def decodeT (low : Byte) (i : Bit → Instr) : Option Instr :=
  if low.extractLsb' 1 7 = 0#7 then some (i (low.getLsbD 0)) else none

/-- The decoder, total on the 65536 command words (R62, R64): the opcode alone selects the format; `none`
is an illegal word. -/
def decode (w : CmdWord) : Option Instr :=
  let low := lowByteOf w
  match (opcodeOf w).toNat with
  | 0x00 => decodeN low .nop
  | 0x01 => decodeN low .iclr
  | 0x02 => some (.ipush low)
  | 0x03 => decodeN low .bclr
  | 0x04 => decodeT low .bpush
  | 0x05 => decodeN low .eclr
  | 0x06 => decodeN low .srst
  | 0x10 => decodeN low .flatten
  | 0x11 => decodeN low .pack
  | 0x12 => decodeN low .enclen
  | 0x13 => decodeN low .declen
  | 0x20 => decodeN low .fnew
  | 0x21 => some (.feed low)
  | 0x22 => decodeN low .finalize
  | 0x30 => decodeN low .build
  | 0x31 => decodeN low .gentable
  | 0x32 => decodeN low .serialize
  | 0x33 => decodeN low .deserialize
  | 0x40 => decodeN low .encode
  | 0x41 => decodeN low .compress
  | 0x42 => decodeN low .assemble
  | 0x43 => decodeN low .decode
  | 0x44 => decodeN low .decompress
  | _ => none

/-- The opcode of a command (R62). -/
def Instr.opcode : Instr → BitVec 8
  | .nop => 0x00#8
  | .iclr => 0x01#8
  | .ipush _ => 0x02#8
  | .bclr => 0x03#8
  | .bpush _ => 0x04#8
  | .eclr => 0x05#8
  | .srst => 0x06#8
  | .flatten => 0x10#8
  | .pack => 0x11#8
  | .enclen => 0x12#8
  | .declen => 0x13#8
  | .fnew => 0x20#8
  | .feed _ => 0x21#8
  | .finalize => 0x22#8
  | .build => 0x30#8
  | .gentable => 0x31#8
  | .serialize => 0x32#8
  | .deserialize => 0x33#8
  | .encode => 0x40#8
  | .compress => 0x41#8
  | .assemble => 0x42#8
  | .decode => 0x43#8
  | .decompress => 0x44#8

/-- Bits 7:0 of a command's word (R60): its byte, its bit in bit 0, or 0. -/
def Instr.lowByte : Instr → Byte
  | .ipush imm8 => imm8
  | .feed imm8 => imm8
  | .bpush imm1 => BitVec.ofNat 8 imm1.toNat
  | .nop => 0#8
  | .iclr => 0#8
  | .bclr => 0#8
  | .eclr => 0#8
  | .srst => 0#8
  | .flatten => 0#8
  | .pack => 0#8
  | .enclen => 0#8
  | .declen => 0#8
  | .fnew => 0#8
  | .finalize => 0#8
  | .build => 0#8
  | .gentable => 0#8
  | .serialize => 0#8
  | .deserialize => 0#8
  | .encode => 0#8
  | .compress => 0#8
  | .assemble => 0#8
  | .decode => 0#8
  | .decompress => 0#8

/-- The word of a command: opcode in bits 15:8, operand below (R60). -/
def encode (i : Instr) : CmdWord := i.opcode ++ i.lowByte

/-- `mask` of the command's row in R62: all 16 bits for format N, 15:8 for B, 15:1 for T. -/
def Instr.mask (i : Instr) : CmdWord :=
  match i.format with
  | .n => 0xFFFF#16
  | .b => 0xFF00#16
  | .t => 0xFFFE#16

/-- `match` of the command's row in R62: the word with its operand bits 0. -/
def Instr.matchWord (i : Instr) : CmdWord := i.opcode ++ 0#8

/-- What the decoder reads from an instruction whose bits are `w`, of which `nbits` are given and the rest
are 0. A command is one 16-bit word with no byte order (R60), so the word is the number itself; a number
that does not fit 16 bits is no command word. -/
def decodeTableWord (nbits w : Nat) : Option Instr :=
  let v := w % 2 ^ nbits
  if v < 2 ^ 16 then decode (BitVec.ofNat 16 v) else none

end Sys2Proof
end

