-- ==== Sys2Proof/Config.lean ====
section
/-! DEFINITION. The parameters of HUFFCORE: the fixed ones of spec/00_scope.md rule R3 and the form of the
open ones of rule R4 (the values of the three capacities stand in State, log entry 2). -/

namespace Sys2Proof

/-- SYM_N, the number of symbols (R3). -/
abbrev Config.symN : Nat := 256

/-- NODE_N, the size of the node arena (R3). -/
abbrev Config.nodeN : Nat := 511

/-- CODE_MAX, the longest code a table entry holds, in bits (R3). -/
abbrev Config.codeMax : Nat := 255

/-- The largest count and the largest length, 2^64 - 1 (R3, R81, R121). -/
abbrev Config.max64 : Nat := 2 ^ 64 - 1

/-- The open parameter BASE: where the ports sit in a system's address map. No rule reads it (R46, log
entry 17), and nothing in the model does. -/
opaque Config.busBase : Nat

/-- A buffer capacity: a natural number below 2^64, or unbounded (R4). -/
inductive Capacity where
  | unbounded
  | limit (n : BitVec 64)
  deriving DecidableEq, Repr

/-- The three open parameters IBUF_CAP, OBUF_CAP (bytes) and BBUF_CAP (bits) (R4). -/
structure Capacities where
  ibuf : Capacity
  obuf : Capacity
  bbuf : Capacity
  deriving DecidableEq, Repr

end Sys2Proof
end

