-- ==== Sys2Proof/Machine/State.lean ====
section
/-! DEFINITION. The state of HUFFCORE (spec/10_state.md), plain data, and the state after reset
(spec/70_reset_and_hazards.md rule R170). -/

namespace Sys2Proof.Machine

/-- The causes of a fault (spec/60_exceptions.md rule R150). A command that raises one latches its code
and the block goes on (R159): a cause is no stop of the model. -/
inductive FaultCause where
  /-- "fewer than 8 bytes for the length prefix" (R151). -/
  | truncatedLength
  /-- "table bytes end without a proper terminator record" (R152). -/
  | malformedTable
  /-- "bit stream exhausted before `original_length` bytes decoded" (R153). -/
  | decodeError
  /-- "a buffer never matches any table entry" (R154). -/
  | unknownCode
  /-- A word that is no command (R155). -/
  | illegalCommand
  /-- A command issued in a state its rule does not allow (R156). -/
  | precondition
  /-- A result that does not fit a buffer or a counter (R158). -/
  | capacity
  deriving DecidableEq, Repr

/-- The reasons a step can stop: none. Every command in every state has an outcome the spec describes
(R63), and every fault of the spec is latched state after which the block goes on (R159), so no
constructor is needed (log entry 12). -/
inductive Fault where
  deriving DecidableEq, Repr

/-- The reasons a step can be refused. -/
inductive Refusal where
  /-- The instruction has no meaning in `exec` yet. Raised by an arm of `exec` alone, and by none now. Safe:
  nothing can be proved of what such an instruction does. -/
  | notModelled (mnemonic : String)
  deriving DecidableEq, Repr

/-- One entry of the node arena (R21); KIND is the constructor, and a field the table of R21 gives as
"otherwise 0" is read as 0 by the accessors in Ops. -/
inductive Node where
  /-- KIND 0. -/
  | unused
  /-- KIND 1: VALUE and WEIGHT. -/
  | leaf (value : Byte) (weight : Weight)
  /-- KIND 2: WEIGHT, LEFT (edge bit 0) and RIGHT (edge bit 1). -/
  | internal (weight : Weight) (left right : NodeId)
  /-- KIND 3: the node of an empty distribution, weight 0, no value, no children (R91). -/
  | placeholder
  deriving DecidableEq, Repr

/-- FREQ[0..255] (R20). -/
abbrev FreqFile := Vector Count Config.symN

/-- NODE[0..510] (R21). -/
abbrev Arena := Vector Node Config.nodeN

/-- CT[0..255] in the abstract view R23 allows: absent, or a code. -/
abbrev CodeTable := Vector (Option Code) Config.symN

/-- The elements a host may ask to read (R25), by space and index (R40). -/
inductive Element where
  | ibuf (i : Nat)
  | obuf (i : Nat)
  | bbuf (i : Nat)
  | freq (i : Nat)
  | node (i : Nat)
  | ct (i : Nat)
  deriving DecidableEq, Repr

/-- One action of the host (R9, R25, R27, R28, R171). -/
inductive HostAction where
  /-- A write of a 16-bit word to CMD (R28). -/
  | command (w : CmdWord)
  /-- A write of a value to the register of that number through the 64-bit register port (R27). -/
  | writeReg (number : Nat) (v : BitVec 64)
  /-- A read of the register of that number (R27). -/
  | readReg (number : Nat)
  /-- A read of an element of a file or buffer (R25). -/
  | readElement (e : Element)
  /-- A hardware reset (R171). -/
  | hardReset
  deriving DecidableEq, Repr

/-- Everything the spec gives the block (10_state.md section 1), and two fields of the model's own:
`caps`, the open parameters of R4, and `hostQueue`, the host's coming actions (R9, R173). ILEN, OLEN and
BLEN are the lengths of `ibuf`, `obuf` and `bbuf`; STATUS is a view (R27). -/
structure State where
  /-- LEN (R12). -/
  len : Len
  /-- IBUF[0..ILEN) (R16). -/
  ibuf : List Byte
  /-- IPOS (R17). -/
  ipos : Nat
  /-- OBUF[0..OLEN) (R18). -/
  obuf : List Byte
  /-- BBUF[0..BLEN) (R19). -/
  bbuf : List Bit
  /-- ROOT (R22). -/
  root : NodeId
  /-- ERR (R26). -/
  err : BitVec 8
  /-- ERRCMD (R26). -/
  errcmd : CmdWord
  /-- FC_OPEN (R13). -/
  fcOpen : Bool
  /-- TREE_VALID (R14). -/
  treeValid : Bool
  /-- CT_VALID (R15). -/
  ctValid : Bool
  /-- FREQ[0..255] (R20). -/
  freq : FreqFile
  /-- NODE[0..510] (R21). -/
  nodes : Arena
  /-- CT[0..255] (R23). -/
  ct : CodeTable
  /-- IBUF_CAP, OBUF_CAP, BBUF_CAP (R4; log entry 2). -/
  caps : Capacities
  /-- The host's coming actions, the next one first (R9, R173; log entry 1). -/
  hostQueue : List HostAction
  deriving DecidableEq, Repr

/-- The reset state of R170 of a block with the given capacities, before the given host actions. The
entries of NODE and CT, which R170 leaves unspecified and unobservable, are UNUSED and absent (DESIGN
CHOICE, unsafe, log entries 4 and 5). -/
def State.resetWith (caps : Capacities) (queue : List HostAction) : State where
  len := 0#64
  ibuf := []
  ipos := 0
  obuf := []
  bbuf := []
  root := 0
  err := 0#8
  errcmd := 0#16
  fcOpen := true
  treeValid := false
  ctValid := false
  freq := Vector.replicate Config.symN 0#64
  nodes := Vector.replicate Config.nodeN .unused
  ct := Vector.replicate Config.symN none
  caps := caps
  hostQueue := queue

/-- The machine right after reset (R170), with the three capacities unbounded (DESIGN CHOICE, unsafe, log
entry 2) and no host action waiting (DESIGN CHOICE, log entry 1). -/
def State.reset : State :=
  State.resetWith ⟨.unbounded, .unbounded, .unbounded⟩ []

end Sys2Proof.Machine
end

