-- ==== Sys2Proof/Machine/Ops.lean ====
section
/-! DEFINITION. The named operations every command is built from: reads and writes of the spaces
(spec/20_memory.md rules R40, R53), capacities (R4), taking a fault and clearing it (spec/60_exceptions.md
rules R159, R162), and the execution of one command (spec/30_encoding.md rule R63). -/

namespace Sys2Proof.Machine

/-- A result of `n` elements fits a buffer of this capacity (R4, R158). -/
def capacityAdmits : Capacity → Nat → Bool
  | .unbounded, _ => true
  | .limit m, n => decide (n ≤ m.toNat)

/-! ### The length registers and the buffers -/

/-- ILEN, the number of bytes IBUF holds (R16). -/
def State.ilen (s : State) : Nat := s.ibuf.length

/-- OLEN, the number of bytes OBUF holds (R18). -/
def State.olen (s : State) : Nat := s.obuf.length

/-- BLEN, the number of bits BBUF holds (R19). -/
def State.blen (s : State) : Nat := s.bbuf.length

/-- `MemRead(S, i)`: the element of a buffer at index `i`, none at or beyond its length (R7, R53). -/
def memRead {α : Type} (buf : List α) (i : Nat) : Option α := buf[i]?

/-- `MemWrite(S, i, v)` at `i` = the length register, which then counts the new element: the one element
write the commands use (R142, R144, R148). -/
def memAppend {α : Type} (buf : List α) (v : α) : List α := buf ++ [v]

/-! ### The register files -/

/-- The element of a 256-entry file for byte value `b` (R7, R20, R23). -/
def fileGet {α : Type} (v : Vector α Config.symN) (b : Byte) : α := v[b.toNat]'b.isLt

/-- The file with element `b` replaced (R7). -/
def fileSet {α : Type} (v : Vector α Config.symN) (b : Byte) (x : α) : Vector α Config.symN :=
  v.set b.toNat x b.isLt

/-- The file whose element `i` is `f i` (a `for i in 0..n-1` of R80 or R90). -/
def tabulate {α : Type} (n : Nat) (f : Nat → α) : Vector α n :=
  ⟨((List.range n).map f).toArray, by simp⟩

/-- NODE[i] (R7, R21). -/
def nodeGet (a : Arena) (i : NodeId) : Node := a[i.val]'i.isLt

/-- The arena with NODE[i] replaced (R7). -/
def nodeSet (a : Arena) (i : NodeId) (n : Node) : Arena := a.set i.val n i.isLt

/-- NODE[i].KIND: 0 UNUSED, 1 LEAF, 2 INTERNAL, 3 PLACEHOLDER (R21). -/
def Node.kind : Node → BitVec 2
  | .unused => 0#2
  | .leaf _ _ => 1#2
  | .internal _ _ _ => 2#2
  | .placeholder => 3#2

/-- NODE[i].VALUE, 0 unless a LEAF (R21). -/
def Node.value : Node → Byte
  | .leaf v _ => v
  | .unused => 0#8
  | .internal _ _ _ => 0#8
  | .placeholder => 0#8

/-- NODE[i].WEIGHT, 0 for PLACEHOLDER and UNUSED (R21). -/
def Node.weight : Node → Weight
  | .leaf _ w => w
  | .internal w _ _ => w
  | .unused => 0#72
  | .placeholder => 0#72

/-- NODE[i].LEFT as its 9-bit field, 0 unless INTERNAL (R21). -/
def Node.leftField : Node → BitVec 9
  | .internal _ l _ => BitVec.ofNat 9 l.val
  | .unused => 0#9
  | .leaf _ _ => 0#9
  | .placeholder => 0#9

/-- NODE[i].RIGHT as its 9-bit field, 0 unless INTERNAL (R21). -/
def Node.rightField : Node → BitVec 9
  | .internal _ _ r => BitVec.ofNat 9 r.val
  | .unused => 0#9
  | .leaf _ _ => 0#9
  | .placeholder => 0#9

/-- The table with every entry absent: the start of `table` (R101) and of `deserialize` (R106). -/
def emptyTable : CodeTable := Vector.replicate Config.symN none

/-- The number a bit sequence writes with its first bit least significant. -/
def natOfBitsLE : List Bit → Nat
  | [] => 0
  | b :: rest => b.toNat + 2 * natOfBitsLE rest

/-- CT[b].VALID (R23). -/
def entryValid (e : Option Code) : Bool := e.isSome

/-- CT[b].CLEN, the length of the code in bits, 0 for an absent entry (R23). -/
def entryClen (e : Option Code) : BitVec 8 := BitVec.ofNat 8 (e.getD []).length

/-- CT[b].CODE: code bit `j` at `CODE[j]`, 0 above CLEN and for an absent entry (R23). -/
def entryCode (e : Option Code) : BitVec 255 := BitVec.ofNat 255 (natOfBitsLE (e.getD []))

/-! ### Faults: taking one, returning from one -/

/-- The code of a fault as ERR holds it (R150). -/
def FaultCause.code : FaultCause → BitVec 8
  | .truncatedLength => 1#8
  | .malformedTable => 2#8
  | .decodeError => 3#8
  | .unknownCode => 4#8
  | .illegalCommand => 5#8
  | .precondition => 6#8
  | .capacity => 7#8

/-- What a fault does (R159): ERR takes the code, ERRCMD the command word, and nothing else changes. -/
def State.raise (s : State) (cause : FaultCause) (w : CmdWord) : State :=
  { s with err := cause.code, errcmd := w }

/-- The return from a fault (R145, R162): the latch is cleared and nothing is restored. -/
def State.clearLatch (s : State) : State :=
  { s with err := 0#8, errcmd := 0#16 }

/-- A fault is latched (R26). -/
def State.latched (s : State) : Bool := s.err != 0#8

/-- `require c else F` (R7). -/
def require (c : Bool) (cause : FaultCause) : Except FaultCause Unit :=
  if c then .ok () else .error cause

/-- The two commands that run while a fault is latched: ECLR and SRST (R63 step 1, R160). -/
def runsLatched : Instr → Bool
  | .eclr => true
  | .srst => true
  | .nop => false
  | .iclr => false
  | .ipush _ => false
  | .bclr => false
  | .bpush _ => false
  | .flatten => false
  | .pack => false
  | .enclen => false
  | .declen => false
  | .fnew => false
  | .feed _ => false
  | .finalize => false
  | .build => false
  | .gentable => false
  | .serialize => false
  | .deserialize => false
  | .encode => false
  | .compress => false
  | .assemble => false
  | .decode => false
  | .decompress => false

/-- One command from the latch to the commit (R63 steps 1, 3, 4, 5), the ONE place a fault is taken. A
latched fault discards the command unless it is ECLR or SRST; otherwise its operation `op` runs on a copy
of the state, and either the copy is committed or the fault it raised is taken in the state as it was. -/
def issue (i : Instr) (op : State → Except FaultCause State) (s : State) :
    Host.Outcome State Fault Refusal :=
  if s.latched && !(runsLatched i) then .next s
  else match op s with
    | .ok t => .next t
    | .error cause => .next (s.raise cause (encode i))

/-! ### Reset -/

/-- A hardware reset or SRST (R146, R170, R171): every piece of state takes its reset value; the
capacities do not change, and the host's coming actions, which are outside the block, stand. -/
def State.restart (s : State) : State := State.resetWith s.caps s.hostQueue

end Sys2Proof.Machine
end

