-- ==== Sys2Proof/Machine/Flags.lean ====
section
/-! DEFINITION. The flags FC_OPEN, TREE_VALID, CT_VALID (spec/10_state.md rules R13 to R15) and STATUS, their
read view with the fault latch (rule R27). HUFFCORE has no arithmetic condition codes. -/

namespace Sys2Proof.Machine

/-- FC_OPEN set to `v` (R13). -/
def State.setFcOpen (s : State) (v : Bool) : State := { s with fcOpen := v }

/-- TREE_VALID <- 1 (R14). -/
def State.markTree (s : State) : State := { s with treeValid := true }

/-- CT_VALID <- 1 (R15). -/
def State.markTable (s : State) : State := { s with ctValid := true }

/-- STATUS (R27): bit 0 ERRF = (ERR != 0), bit 1 FC_OPEN, bit 2 TREE_VALID, bit 3 CT_VALID, bits 7:4 read
0. -/
def State.status (s : State) : BitVec 8 :=
  0#4 ++ BitVec.ofBool s.ctValid ++ BitVec.ofBool s.treeValid ++ BitVec.ofBool s.fcOpen
    ++ BitVec.ofBool s.latched

end Sys2Proof.Machine
end

