-- ==== Sys2Proof/Machine/Operands.lean ====
section
/-! DEFINITION. The operand forms: every command's implicit operands and results (spec/30_encoding.md rule
R61), the unread input and its cursor (spec/10_state.md rule R17), and the checked whole-buffer writes
(spec/20_memory.md rule R53). -/

namespace Sys2Proof.Machine

/-- The unread input `IBUF[IPOS..ILEN)` (R17). -/
def State.unread (s : State) : List Byte := s.ibuf.drop s.ipos

/-- The input consumed by `n` bytes: `IPOS <- IPOS + n` (R17). -/
def State.advance (s : State) (n : Nat) : State := { s with ipos := s.ipos + n }

/-- All of the unread input consumed: `IPOS <- ILEN` (R17). -/
def State.consumeAll (s : State) : State := { s with ipos := s.ilen }

/-- IBUF and its cursor replaced (R141, R142). -/
def State.putInput (s : State) (bytes : List Byte) (pos : Nat) : State :=
  { s with ibuf := bytes, ipos := pos }

/-- `LEN <- v` (R12). -/
def State.putLen (s : State) (v : Len) : State := { s with len := v }

/-- `OBUF <- s`, which sets OLEN too (R7). -/
def State.putObuf (s : State) (bytes : List Byte) : State := { s with obuf := bytes }

/-- `BBUF <- s`, which sets BLEN too (R7). -/
def State.putBbuf (s : State) (bits : List Bit) : State := { s with bbuf := bits }

/-- FREQ replaced (R20). -/
def State.putFreq (s : State) (f : FreqFile) : State := { s with freq := f }

/-- NODE and ROOT replaced (R21, R22). -/
def State.putTree (s : State) (a : Arena) (r : NodeId) : State := { s with nodes := a, root := r }

/-- CT replaced (R23). -/
def State.putCt (s : State) (t : CodeTable) : State := { s with ct := t }

/-- `n` bytes fit OBUF (R158). -/
def State.obufAdmits (s : State) (n : Nat) : Bool := capacityAdmits s.caps.obuf n

/-- `n` bits fit BBUF (R158). -/
def State.bbufAdmits (s : State) (n : Nat) : Bool := capacityAdmits s.caps.bbuf n

/-- `n` bytes fit IBUF (R158). -/
def State.ibufAdmits (s : State) (n : Nat) : Bool := capacityAdmits s.caps.ibuf n

/-- The checked write of OBUF: CapacityFault before anything is written (R53, R158). -/
def State.writeObuf (s : State) (bytes : List Byte) : Except FaultCause State := do
  require (s.obufAdmits bytes.length) .capacity
  return s.putObuf bytes

/-- The checked write of BBUF: CapacityFault before anything is written (R53, R158). -/
def State.writeBbuf (s : State) (bits : List Bit) : Except FaultCause State := do
  require (s.bbufAdmits bits.length) .capacity
  return s.putBbuf bits

end Sys2Proof.Machine
end

