-- ==== Sys2Proof/Machine/BitConverter.lean ====
section
/-! DEFINITION. BITCONV: FLATTEN, PACK, ENCLEN, DECLEN (spec/40_bitconverter.md rules R70 to R73). -/

namespace Sys2Proof.Machine

/-- The 8 bits of a byte, most significant first: sequence index `j` is `b[7-j]` (R6, R42, R70). -/
def bitsOfByte (b : Byte) : List Bit := (List.range 8).map fun j => b.getLsbD (7 - j)

/-- `flatten(x)` (R70). -/
def flatten (x : List Byte) : List Bit := x.flatMap bitsOfByte

/-- The byte whose bits, most significant first, are the given ones (R42). -/
def byteOfBits (bits : List Bit) : Byte :=
  BitVec.ofNat 8 (bits.foldl (fun acc b => 2 * acc + b.toNat) 0)

/-- Byte `i` of `pack(s)`: the bits at `8*i + j`, and a pad bit 1 past the end of `s` (R71). -/
def packByte (s : List Bit) (i : Nat) : Byte :=
  byteOfBits ((List.range 8).map fun j => s.getD (8 * i + j) true)

/-- `ceil(n / 8)`, the number of bytes `n` bits pack into (R71). -/
def packedLength (n : Nat) : Nat := (n + 7) / 8

/-- `pack(s)` (R71). -/
def pack (s : List Bit) : List Byte := (List.range (packedLength s.length)).map (packByte s)

/-- `encode_length(n)`: byte `k` is `(n >> (8*(7-k))) & 0xFF` (R41, R72). -/
def encodeLength (n : Len) : List Byte :=
  (List.range 8).map fun k => (n >>> (8 * (7 - k))).setWidth 8

/-- `decode_length(e)`: the sum of `e[k] << (8*(7-k))` for `k` in 0..7 (R73). -/
def decodeLength (e : List Byte) : Len :=
  BitVec.ofNat 64 ((List.range 8).map fun k => (e.getD k 0#8).toNat <<< (8 * (7 - k))).sum

/-- FLATTEN (R70). -/
def opFlatten (s : State) : Except FaultCause State := do
  let t ← s.writeBbuf (flatten s.unread)
  return t.consumeAll

/-- PACK (R71). -/
def opPack (s : State) : Except FaultCause State := s.writeObuf (pack s.bbuf)

/-- ENCLEN (R72). -/
def opEnclen (s : State) : Except FaultCause State := s.writeObuf (encodeLength s.len)

/-- DECLEN (R73): PreconditionFault, not TruncatedLengthError, with fewer than 8 unread bytes. -/
def opDeclen (s : State) : Except FaultCause State := do
  require (decide (8 ≤ s.unread.length)) .precondition
  return (s.putLen (decodeLength (s.unread.take 8))).advance 8

def execFlatten (s : State) : Host.Outcome State Fault Refusal := issue .flatten opFlatten s

def execPack (s : State) : Host.Outcome State Fault Refusal := issue .pack opPack s

def execEnclen (s : State) : Host.Outcome State Fault Refusal := issue .enclen opEnclen s

def execDeclen (s : State) : Host.Outcome State Fault Refusal := issue .declen opDeclen s

end Sys2Proof.Machine
end

