-- ==== Sys2Proof/Machine/TreeBuilder.lean ====
section
/-! DEFINITION. The tree builder of ENC: BUILD (spec/42_tree_builder.md rules R90 to R94). -/

namespace Sys2Proof.Machine

/-- The arena after step 1 of R90: NODE[b] a LEAF for every nonzero count, every other entry UNUSED. -/
def leafArena (f : FreqFile) : Arena :=
  tabulate Config.nodeN fun i =>
    if h : i < Config.symN then
      if f[i] = 0#64 then .unused
      else .leaf (BitVec.ofNat 8 i) (f[i].setWidth 72)
    else .unused

/-- The ids of the leaves, ascending (step 1 of R90): the byte values with a nonzero count, which are their
leaves' ids (R21). -/
def leafIds (f : FreqFile) : List NodeId :=
  f.toList.zipIdx.filterMap fun p =>
    if p.1 = 0#64 then none else some (Fin.ofNat Config.nodeN p.2)

/-- The order `before` (R92): heavier first, among equal weights the smaller id first. -/
def before (a : Arena) (i j : NodeId) : Bool :=
  decide ((nodeGet a j).weight < (nodeGet a i).weight)
    || (decide ((nodeGet a i).weight = (nodeGet a j).weight) && decide (i < j))

/-- `i` put into a sorted list, in front of the first node it stands before. -/
def insertNode (a : Arena) (i : NodeId) : List NodeId → List NodeId
  | [] => [i]
  | j :: rest => if before a i j then i :: j :: rest else j :: insertNode a i rest

/-- `sort lst so that before(lst[k], lst[k+1])` (R90): `before` is total, so the method does not show
(R92, U26; log entry 11). -/
def sortNodes (a : Arena) : List NodeId → List NodeId
  | [] => []
  | i :: rest => insertNode a i (sortNodes a rest)

/-- One merge (R93): `r`, the last of the sorted list, becomes the right child, `l`, the last of what is
left, the left child, of the new node `next`, which joins the list, sorted again. -/
def mergeOnce (a : Arena) (lst : List NodeId) (next : NodeId) : Arena × List NodeId :=
  match lst.reverse with
  | r :: l :: front =>
    let a' := nodeSet a next
      (.internal ((nodeGet a l).weight + (nodeGet a r).weight) l r)
    (a', sortNodes a' (front.reverse ++ [next]))
  | [_] => (a, lst)
  | [] => (a, lst)

/-- Step 4 of R90, `while |lst| > 1`: each merge shortens the list by one, so `fuel` = its length is
enough (log entry 11). -/
def mergeAll : Nat → Arena → List NodeId → Nat → Arena × List NodeId
  | 0, a, lst, _ => (a, lst)
  | fuel + 1, a, lst, next =>
    if lst.length ≤ 1 then (a, lst)
    else
      let m := mergeOnce a lst (Fin.ofNat Config.nodeN next)
      mergeAll fuel m.1 m.2 (next + 1)

/-- The arena, work list and next id after steps 1 and 3 of R90: the leaves, or the placeholder of R91 at
id 256 when no count is nonzero. -/
def initialForest (f : FreqFile) : Arena × List NodeId × Nat :=
  match leafIds f with
  | [] => (nodeSet (leafArena f) 256 .placeholder, [256], 257)
  | ids => (leafArena f, ids, 256)

/-- NODE and ROOT as BUILD makes them from FREQ (R90). -/
def buildTree (f : FreqFile) : Arena × NodeId :=
  let start := initialForest f
  let sorted := sortNodes start.1 start.2.1
  let done := mergeAll sorted.length start.1 sorted start.2.2
  (done.1, done.2.headD 0)

/-- BUILD (R90). -/
def opBuild (s : State) : Except FaultCause State := do
  require (!s.fcOpen) .precondition
  let tree := buildTree s.freq
  return (s.putTree tree.1 tree.2).markTree

def execBuild (s : State) : Host.Outcome State Fault Refusal := issue .build opBuild s

end Sys2Proof.Machine
end

