-- ==== Sys2Proof/Machine/CodeTable.lean ====
section
/-! DEFINITION. The code table: GENTABLE, SERIALIZE, DESERIALIZE (spec/43_code_table.md rules R100 to R111). -/

namespace Sys2Proof.Machine

/-- `walk(i, path)` of R101 on a table `T`, left subtree first. The first argument bounds the depth: a
code has at most 255 bits (R94), so 256 levels reach every leaf of a tree (log entry 10). -/
def walk (a : Arena) : Nat → NodeId → List Bit → CodeTable → CodeTable
  | 0, _, _, T => T
  | depth + 1, i, path, T =>
    match nodeGet a i with
    | .leaf v _ => fileSet T v (some path)
    | .internal _ l r =>
      walk a depth r (path ++ [true]) (walk a depth l (path ++ [false]) T)
    | .placeholder => T
    | .unused => T

/-- `table(root)` (R101). -/
def tableOf (a : Arena) (root : NodeId) : CodeTable :=
  walk a (Config.codeMax + 1) root [] emptyTable

/-- The valid entries of a table, ascending in byte value: the scan of R104. -/
def entries (T : CodeTable) : List (Byte × Code) :=
  T.toList.zipIdx.filterMap fun p => p.1.map fun code => (BitVec.ofNat 8 p.2, code)

/-- A code bit as a byte of the serialised table: 0x00 or 0x01 (R103). -/
def byteOfBit (b : Bit) : Byte := BitVec.ofNat 8 b.toNat

/-- One record `[byte][code bits][separator]` (R103). -/
def record (e : Byte × Code) (separator : Byte) : List Byte :=
  e.1 :: e.2.map byteOfBit ++ [separator]

/-- The records of R104, 0x02 between records and 0x03 after the last; the lone 0x03 when there is none
(R105). -/
def serializeEntries : List (Byte × Code) → List Byte
  | [] => [0x03#8]
  | [e] => record e 0x03#8
  | e :: e' :: rest => record e 0x02#8 ++ serializeEntries (e' :: rest)

/-- `serialize(T)` (R104). -/
def serialize (T : CodeTable) : List Byte := serializeEntries (entries T)

/-- The inner loop of R106, from inside the record of `sym` whose code so far is `code`, `p` bytes
consumed: code bits (at most 255, R107), the separator and the next record's byte, the terminator, or an
error (R109). A repeated byte value replaces the earlier entry (R108). -/
def parseRecords (T : CodeTable) (sym : Byte) (code : Code) (p : Nat) :
    List Byte → Except FaultCause (CodeTable × Nat)
  | [] => .error .malformedTable
  | c :: rest =>
    if c = 0x00#8 ∨ c = 0x01#8 then
      if code.length < Config.codeMax then
        parseRecords T sym (code ++ [c == 0x01#8]) (p + 1) rest
      else .error .malformedTable
    else if c = 0x02#8 then
      match rest with
      | [] => .error .malformedTable
      | sym' :: rest' => parseRecords (fileSet T sym (some code)) sym' [] (p + 2) rest'
    else if c = 0x03#8 then .ok (fileSet T sym (some code), p + 1)
    else .error .malformedTable

/-- `deserialize(src)`: the table and the number of bytes consumed (R106); the empty table exactly when
the whole source is the byte 0x03 (R105). -/
def deserialize (src : List Byte) : Except FaultCause (CodeTable × Nat) :=
  if src = [0x03#8] then .ok (emptyTable, 1)
  else match src with
    | [] => .error .malformedTable
    | sym :: rest => parseRecords emptyTable sym [] 1 rest

/-- GENTABLE (R100). -/
def opGentable (s : State) : Except FaultCause State := do
  require s.treeValid .precondition
  return (s.putCt (tableOf s.nodes s.root)).markTable

/-- SERIALIZE (R104). -/
def opSerialize (s : State) : Except FaultCause State := do
  require s.ctValid .precondition
  s.writeObuf (serialize s.ct)

/-- DESERIALIZE (R106). -/
def opDeserialize (s : State) : Except FaultCause State := do
  let parsed ← deserialize s.unread
  return ((s.putCt parsed.1).markTable).advance parsed.2

def execGentable (s : State) : Host.Outcome State Fault Refusal := issue .gentable opGentable s

def execSerialize (s : State) : Host.Outcome State Fault Refusal := issue .serialize opSerialize s

def execDeserialize (s : State) : Host.Outcome State Fault Refusal :=
  issue .deserialize opDeserialize s

end Sys2Proof.Machine
end

