-- ==== Sys2Proof/Machine/FreqCounter.lean ====
section
/-! DEFINITION. The frequency counter of ENC: FNEW, FEED, FINALIZE (spec/41_frequency_counter.md rules R80 to
R83). -/

namespace Sys2Proof.Machine

/-- FREQ with every count 0 (R80). -/
def zeroFreq : FreqFile := Vector.replicate Config.symN 0#64

/-- `count(x)[b] = |{ i : x[i] = b }|` (R83); below 2^64 when `x` is (R121), so it fits its counter. -/
def countBytes (x : List Byte) : FreqFile :=
  tabulate Config.symN fun b => BitVec.ofNat 64 (x.count (BitVec.ofNat 8 b))

/-- FNEW (R80). -/
def opFnew (s : State) : Except FaultCause State :=
  return (s.putFreq zeroFreq).setFcOpen true

/-- FEED (R81): the count never wraps. -/
def opFeed (imm8 : Byte) (s : State) : Except FaultCause State := do
  require s.fcOpen .precondition
  require (decide ((fileGet s.freq imm8).toNat < Config.max64)) .capacity
  return s.putFreq (fileSet s.freq imm8 (fileGet s.freq imm8 + 1#64))

/-- FINALIZE (R82). -/
def opFinalize (s : State) : Except FaultCause State := do
  require s.fcOpen .precondition
  return s.setFcOpen false

def execFnew (s : State) : Host.Outcome State Fault Refusal := issue .fnew opFnew s

def execFeed (imm8 : Byte) (s : State) : Host.Outcome State Fault Refusal :=
  issue (.feed imm8) (opFeed imm8) s

def execFinalize (s : State) : Host.Outcome State Fault Refusal := issue .finalize opFinalize s

end Sys2Proof.Machine
end

