-- ==== Sys2Proof/Machine/Codec.lean ====
section
/-! DEFINITION. The codec: ENCODE, COMPRESS, ASSEMBLE, DECODE, DECOMPRESS and the container
(spec/44_codec.md rules R120 to R130). -/

namespace Sys2Proof.Machine

/-- `encode(T, x)`: the codes of the bytes of `x`, concatenated (R120). A byte without an entry, which
ENCODE refuses first, adds nothing. -/
def encodeBytes (T : CodeTable) (x : List Byte) : List Bit :=
  x.flatMap fun b => (fileGet T b).getD []

/-- Every byte of `x` has a table entry (R120). -/
def allEncodable (T : CodeTable) (x : List Byte) : Bool :=
  x.all fun b => (fileGet T b).isSome

/-- `match(T, buf)`: the smallest byte value whose code is `buf`, if any (R125, R127). -/
def matchCode (T : CodeTable) (buf : List Bit) : Option Byte :=
  (T.toList.findIdx? fun e => e == some buf).map (BitVec.ofNat 8)

/-- `viable(T, buf)`: `buf` begins, or equals, some code of the table (R125). -/
def viable (T : CodeTable) (buf : List Bit) : Bool :=
  T.toList.any fun e => match e with
    | some code => buf.isPrefixOf code
    | none => false

/-- One symbol of `decode` (R125): the match is tested before a bit is read (R126), then exhaustion, then
the bit read must leave the buffer viable. Answers the byte and the bits left. -/
def decodeSymbol (T : CodeTable) (buf : List Bit) :
    List Bit → Except FaultCause (Byte × List Bit)
  | [] =>
    match matchCode T buf with
    | some b => .ok (b, [])
    | none => .error .decodeError
  | bit :: rest =>
    match matchCode T buf with
    | some b => .ok (b, bit :: rest)
    | none =>
      if viable T (buf ++ [bit]) then decodeSymbol T (buf ++ [bit]) rest
      else .error .unknownCode

/-- `decode(L, T, s)`: `L` symbols, one after another, each from an empty buffer (R125). Bits left over
are ignored. -/
def decodeBits (T : CodeTable) : Nat → List Bit → Except FaultCause (List Byte)
  | 0, _ => .ok []
  | n + 1, s => do
    let sym ← decodeSymbol T [] s
    let out ← decodeBits T n sym.2
    return sym.1 :: out

/-- The container of R123: length, serialised table, payload. -/
def containerOf (len : Len) (T : CodeTable) (payload : List Byte) : List Byte :=
  encodeLength len ++ serialize T ++ payload

/-- ENCODE (R120). -/
def opEncode (s : State) : Except FaultCause State := do
  require s.ctValid .precondition
  require (allEncodable s.ct s.unread) .precondition
  let t ← s.writeBbuf (encodeBytes s.ct s.unread)
  return t.consumeAll

/-- COMPRESS (R121). -/
def opCompress (s : State) : Except FaultCause State := do
  let x := s.unread
  require (decide (x.length ≤ Config.max64)) .capacity
  let f := countBytes x
  let tree := buildTree f
  let T := tableOf tree.1 tree.2
  let t := (((((s.putFreq f).setFcOpen false).putTree tree.1 tree.2).markTree).putCt T).markTable
  let t ← t.writeBbuf (encodeBytes T x)
  let t ← t.writeObuf (pack (encodeBytes T x))
  return (t.putLen (BitVec.ofNat 64 x.length)).consumeAll

/-- ASSEMBLE (R122): the payload is the old OBUF, the table is derived again from the tree. -/
def opAssemble (s : State) : Except FaultCause State := do
  require s.treeValid .precondition
  let T := tableOf s.nodes s.root
  ((s.putCt T).markTable).writeObuf (containerOf s.len T s.obuf)

/-- DECODE (R125): the capacity is tested before any bit is decoded. -/
def opDecode (s : State) : Except FaultCause State := do
  require s.ctValid .precondition
  require (s.obufAdmits s.len.toNat) .capacity
  let out ← decodeBits s.ct s.len.toNat s.bbuf
  return s.putObuf out

/-- DECOMPRESS (R128), the five steps in the document's order. -/
def opDecompress (s : State) : Except FaultCause State := do
  let c := s.unread
  require (decide (8 ≤ c.length)) .truncatedLength
  let L := decodeLength (c.take 8)
  let parsed ← deserialize (c.drop 8)
  let bits := flatten (c.drop (8 + parsed.2))
  let t ← s.writeBbuf bits
  require (s.obufAdmits L.toNat) .capacity
  let out ← decodeBits parsed.1 L.toNat bits
  return ((((t.putLen L).putCt parsed.1).markTable).putObuf out).consumeAll

def execEncode (s : State) : Host.Outcome State Fault Refusal := issue .encode opEncode s

def execCompress (s : State) : Host.Outcome State Fault Refusal := issue .compress opCompress s

def execAssemble (s : State) : Host.Outcome State Fault Refusal := issue .assemble opAssemble s

def execDecode (s : State) : Host.Outcome State Fault Refusal := issue .decode opDecode s

def execDecompress (s : State) : Host.Outcome State Fault Refusal :=
  issue .decompress opDecompress s

end Sys2Proof.Machine
end

