-- ==== Sys2Proof/Machine/SystemCommands.lean ====
section
/-! DEFINITION. The system and buffer commands: NOP, ICLR, IPUSH, BCLR, BPUSH, ECLR, SRST
(spec/45_system_commands.md rules R140 to R146). -/

namespace Sys2Proof.Machine

/-- NOP (R140): no state changes. -/
def opNop (s : State) : Except FaultCause State := return s

/-- ICLR (R141). -/
def opIclr (s : State) : Except FaultCause State := return s.putInput [] 0

/-- IPUSH (R142): IPOS is not moved. -/
def opIpush (imm8 : Byte) (s : State) : Except FaultCause State := do
  require (s.ibufAdmits (s.ilen + 1)) .capacity
  return s.putInput (memAppend s.ibuf imm8) s.ipos

/-- BCLR (R143). -/
def opBclr (s : State) : Except FaultCause State := return s.putBbuf []

/-- BPUSH (R144). -/
def opBpush (imm1 : Bit) (s : State) : Except FaultCause State := do
  require (s.bbufAdmits (s.blen + 1)) .capacity
  return s.putBbuf (memAppend s.bbuf imm1)

/-- ECLR (R145), one of the two commands that run while a fault is latched. -/
def opEclr (s : State) : Except FaultCause State := return s.clearLatch

/-- SRST (R146), the other. -/
def opSrst (s : State) : Except FaultCause State := return s.restart

def execNop (s : State) : Host.Outcome State Fault Refusal := issue .nop opNop s

def execIclr (s : State) : Host.Outcome State Fault Refusal := issue .iclr opIclr s

def execIpush (imm8 : Byte) (s : State) : Host.Outcome State Fault Refusal :=
  issue (.ipush imm8) (opIpush imm8) s

def execBclr (s : State) : Host.Outcome State Fault Refusal := issue .bclr opBclr s

def execBpush (imm1 : Bit) (s : State) : Host.Outcome State Fault Refusal :=
  issue (.bpush imm1) (opBpush imm1) s

def execEclr (s : State) : Host.Outcome State Fault Refusal := issue .eclr opEclr s

def execSrst (s : State) : Host.Outcome State Fault Refusal := issue .srst opSrst s

end Sys2Proof.Machine
end

