-- ==== Sys2Proof/Machine/Dispatch.lean ====
section
/-! DEFINITION. The dispatch of a decoded command to its meaning, one arm per row of
spec/opcode_table.json. -/

namespace Sys2Proof.Machine

/-- The execution of one command (spec/30_encoding.md rule R63, after its decode step). -/
def exec (i : Instr) (s : State) : Host.Outcome State Fault Refusal :=
  match i with
  | .nop => Sys2Proof.Machine.execNop s
  | .iclr => Sys2Proof.Machine.execIclr s
  | .ipush imm8 => Sys2Proof.Machine.execIpush imm8 s
  | .bclr => Sys2Proof.Machine.execBclr s
  | .bpush imm1 => Sys2Proof.Machine.execBpush imm1 s
  | .eclr => Sys2Proof.Machine.execEclr s
  | .srst => Sys2Proof.Machine.execSrst s
  | .flatten => Sys2Proof.Machine.execFlatten s
  | .pack => Sys2Proof.Machine.execPack s
  | .enclen => Sys2Proof.Machine.execEnclen s
  | .declen => Sys2Proof.Machine.execDeclen s
  | .fnew => Sys2Proof.Machine.execFnew s
  | .feed imm8 => Sys2Proof.Machine.execFeed imm8 s
  | .finalize => Sys2Proof.Machine.execFinalize s
  | .build => Sys2Proof.Machine.execBuild s
  | .gentable => Sys2Proof.Machine.execGentable s
  | .serialize => Sys2Proof.Machine.execSerialize s
  | .deserialize => Sys2Proof.Machine.execDeserialize s
  | .encode => Sys2Proof.Machine.execEncode s
  | .compress => Sys2Proof.Machine.execCompress s
  | .assemble => Sys2Proof.Machine.execAssemble s
  | .decode => Sys2Proof.Machine.execDecode s
  | .decompress => Sys2Proof.Machine.execDecompress s

end Sys2Proof.Machine
end

