-- ==== Sys2Proof/Machine/HostPort.lean ====
section
/-! DEFINITION. The host's side of the block: a command word written to CMD (spec/30_encoding.md rule R63),
writes and reads of the register port (spec/10_state.md rules R27, R28), reads of elements (rule R25), and a
hardware reset (spec/70_reset_and_hazards.md rule R171). -/

namespace Sys2Proof.Machine

/-- A write of word `w` to CMD (R63, R28): a latched fault discards every word but ECLR and SRST before
anything is decoded; a word that is no command raises IllegalCommand; any other is executed. -/
def execWord (w : CmdWord) (s : State) : Host.Outcome State Fault Refusal :=
  match decode w with
  | some i => exec i s
  | none => if s.latched then .next s else .next (s.raise .illegalCommand w)

/-- A host write of `v` to the register of that number (R27, R28): LEN takes the value, CMD takes a command
word, every other write is ignored. CMD is 16 bits wide: the word is the low 16 bits of the 64-bit data
(DESIGN CHOICE, unsafe, log entry 15). -/
def hostWriteReg (number : Nat) (v : BitVec 64) (s : State) : Host.Outcome State Fault Refusal :=
  if number = 0x03 then .next (s.putLen v)
  else if number = 0x09 then execWord (v.setWidth 16) s
  else .next s

/-- What a host read of the register of that number returns, zero-extended (R27); none where the read is
refused: CMD, a number not in the table, ROOT while TREE_VALID = 0 (R25). The lengths are natural numbers
(R19, log entry 7). -/
def hostReadReg (number : Nat) (s : State) : Option Nat :=
  match number with
  | 0x00 => some s.status.toNat
  | 0x01 => some s.err.toNat
  | 0x02 => some s.errcmd.toNat
  | 0x03 => some s.len.toNat
  | 0x04 => some s.ilen
  | 0x05 => some s.ipos
  | 0x06 => some s.olen
  | 0x07 => some s.blen
  | 0x08 => if s.treeValid then some s.root.val else none
  | _ => none

/-- The value an element read returns (R25, R40): a byte, a bit, a count, a node or a table entry. -/
inductive ElementValue where
  | byte (v : Byte)
  | bit (v : Bit)
  | count (v : Count)
  | node (kind : BitVec 2) (value : Byte) (weight : Weight) (left right : BitVec 9)
  | entry (valid : Bool) (clen : BitVec 8) (code : BitVec 255)
  deriving DecidableEq, Repr

/-- The five fields of a node, as the host reads them (R21). -/
def nodeFields (n : Node) : ElementValue :=
  .node n.kind n.value n.weight n.leftField n.rightField

/-- The three fields of a table entry, as the host reads them (R23). -/
def entryFields (e : Option Code) : ElementValue :=
  .entry (entryValid e) (entryClen e) (entryCode e)

/-- What a host read of an element returns; none where it is refused: a buffer index at or beyond its
length, an index outside a file, NODE while TREE_VALID = 0, CT while CT_VALID = 0 (R25). -/
def hostReadElement (e : Element) (s : State) : Option ElementValue :=
  match e with
  | .ibuf i => (memRead s.ibuf i).map .byte
  | .obuf i => (memRead s.obuf i).map .byte
  | .bbuf i => (memRead s.bbuf i).map .bit
  | .freq i => (s.freq[i]?).map .count
  | .node i => if s.treeValid then (s.nodes[i]?).map nodeFields else none
  | .ct i => if s.ctValid then (s.ct[i]?).map entryFields else none

/-- One action of the host on the block. Reads change nothing (R25): what they return is `hostReadReg` and
`hostReadElement` of the state they meet (log entry 14). -/
def hostAct (a : HostAction) (s : State) : Host.Outcome State Fault Refusal :=
  match a with
  | .command w => execWord w s
  | .writeReg number v => hostWriteReg number v s
  | .readReg _ => .next s
  | .readElement _ => .next s
  | .hardReset => .next s.restart

/-- The next host action, taken off the list and done; with none waiting the block is idle, "waits for the
next command" (R161, R170, log entry 1). -/
def nextAction (s : State) : Host.Outcome State Fault Refusal :=
  match s.hostQueue with
  | [] => .next s
  | a :: rest => hostAct a { s with hostQueue := rest }

/-- The state whose next host action is the write to CMD of the command whose bits are `w`, `nbits` of them
given and the rest 0. -/
def placeCommand (s : State) (nbits w : Nat) : State :=
  { s with hostQueue := .command (BitVec.ofNat 16 (w % 2 ^ nbits)) :: s.hostQueue }

end Sys2Proof.Machine
end

