-- ==== Sys2Proof/Machine/Step.lean ====
section
/-! DEFINITION. One step: one host action, entire (spec/20_memory.md rule R48,
spec/70_reset_and_hazards.md rule R173). -/

namespace Sys2Proof.Machine

/-- One step of the block: the next host action (R28, R48). -/
def step (s : State) : Host.Outcome State Fault Refusal := nextAction s

/-- The state whose next step executes the command with the given bits. -/
def State.withFetchWord (s : State) (nbits w : Nat) : State := placeCommand s nbits w

end Sys2Proof.Machine
end

