-- ==== Sys2Proof/Machine/Memory.lean ====
section
/-! DEFINITION. A buffer's contents as a list of (index, element) cells, in one canonical form: indexes
strictly rising, no cell at or beyond the length register (spec/20_memory.md rules R40, R53; log entry 3). State
holds the elements alone, since their indexes are 0, 1, 2, ...; this view says so. -/

namespace Sys2Proof.Machine

/-- The cells of a buffer: element `i` at index `i`. For a byte buffer these are `Host.Cell`s. -/
def memoryCells {α : Type} (buf : List α) : List (Nat × α) :=
  buf.zipIdx.map fun p => (p.2, p.1)

/-- The canonical form: indexes strictly rising. An unlisted index has no value (R16, R25), so no cell can
repeat what an unlisted index reads as. -/
def memoryWf {α : Type} (cells : List (Nat × α)) : Bool :=
  decide ((cells.map Prod.fst).Pairwise (· < ·))

/-- The element the cells hold at an index, none at an index they do not list. -/
def memoryRead {α : Type} (cells : List (Nat × α)) (i : Nat) : Option α := cells.lookup i

end Sys2Proof.Machine
end

