-- ==== Sys2Proof/Laws/Memory.lean ====
section
/-! SUPPORT. The canonical form of the buffers: whatever a buffer holds, its cells are in it, and reading a
cell is reading the element. So every operation on a buffer keeps the form. -/

namespace Sys2Proof.Machine

/-- The cells of every buffer are in canonical form: every operation that yields a buffer keeps it, and the
empty buffers of reset have it. -/
theorem memoryCells_wf {α : Type} (buf : List α) : memoryWf (memoryCells buf) = true := by
  have h : (memoryCells buf).map Prod.fst = List.range buf.length := by
    apply List.ext_getElem
    · simp [memoryCells]
    · intro i h₁ h₂
      simp [memoryCells]
  simp [memoryWf, h, List.pairwise_lt_range]

theorem lookup_zipIdx {α : Type} (buf : List α) (k i : Nat) :
    ((buf.zipIdx k).map fun p => (p.2, p.1)).lookup (k + i) = buf[i]? := by
  induction buf generalizing k i with
  | nil => simp
  | cons x rest ih =>
    cases i with
    | zero => simp
    | succ i =>
      have hne : (k + (i + 1) == k) = false := by simp
      have := ih (k + 1) i
      rw [List.zipIdx_cons, List.map_cons, List.lookup_cons, hne]
      simpa [Nat.add_assoc, Nat.add_comm 1 i] using this

/-- Reading the cells of a buffer is `MemRead` (R53). -/
theorem memoryRead_cells {α : Type} (buf : List α) (i : Nat) :
    memoryRead (memoryCells buf) i = memRead buf i := by
  simpa [memoryRead, memoryCells, memRead] using lookup_zipIdx buf 0 i

/-- An append to a buffer keeps the canonical form (R142, R144). -/
theorem memAppend_wf {α : Type} (buf : List α) (v : α) :
    memoryWf (memoryCells (memAppend buf v)) = true := memoryCells_wf _

/-- The buffers at reset are in canonical form and list no cell (R170). -/
theorem reset_memory :
    memoryCells State.reset.ibuf = [] ∧ memoryCells State.reset.obuf = [] ∧
      memoryCells State.reset.bbuf = [] := ⟨rfl, rfl, rfl⟩

end Sys2Proof.Machine
end

