-- ==== Sys2Proof/Laws/State.lean ====
section
/-! SUPPORT. What each named update of State does to each field, so that no proof unfolds a record update;
and the views that depend on the fields. -/

namespace Sys2Proof.Machine

variable (s : State)

/-! ### `raise` -/

@[simp] theorem State.raise_len (c : FaultCause) (w : CmdWord) : (s.raise c w).len = s.len := rfl
@[simp] theorem State.raise_ibuf (c : FaultCause) (w : CmdWord) : (s.raise c w).ibuf = s.ibuf := rfl
@[simp] theorem State.raise_ipos (c : FaultCause) (w : CmdWord) : (s.raise c w).ipos = s.ipos := rfl
@[simp] theorem State.raise_obuf (c : FaultCause) (w : CmdWord) : (s.raise c w).obuf = s.obuf := rfl
@[simp] theorem State.raise_bbuf (c : FaultCause) (w : CmdWord) : (s.raise c w).bbuf = s.bbuf := rfl
@[simp] theorem State.raise_root (c : FaultCause) (w : CmdWord) : (s.raise c w).root = s.root := rfl
@[simp] theorem State.raise_err (c : FaultCause) (w : CmdWord) : (s.raise c w).err = c.code := rfl
@[simp] theorem State.raise_errcmd (c : FaultCause) (w : CmdWord) : (s.raise c w).errcmd = w := rfl
@[simp] theorem State.raise_fcOpen (c : FaultCause) (w : CmdWord) : (s.raise c w).fcOpen = s.fcOpen := rfl
@[simp] theorem State.raise_treeValid (c : FaultCause) (w : CmdWord) : (s.raise c w).treeValid = s.treeValid := rfl
@[simp] theorem State.raise_ctValid (c : FaultCause) (w : CmdWord) : (s.raise c w).ctValid = s.ctValid := rfl
@[simp] theorem State.raise_freq (c : FaultCause) (w : CmdWord) : (s.raise c w).freq = s.freq := rfl
@[simp] theorem State.raise_nodes (c : FaultCause) (w : CmdWord) : (s.raise c w).nodes = s.nodes := rfl
@[simp] theorem State.raise_ct (c : FaultCause) (w : CmdWord) : (s.raise c w).ct = s.ct := rfl
@[simp] theorem State.raise_caps (c : FaultCause) (w : CmdWord) : (s.raise c w).caps = s.caps := rfl
@[simp] theorem State.raise_hostQueue (c : FaultCause) (w : CmdWord) : (s.raise c w).hostQueue = s.hostQueue := rfl

/-! ### `clearLatch` -/

@[simp] theorem State.clearLatch_len : (s.clearLatch).len = s.len := rfl
@[simp] theorem State.clearLatch_ibuf : (s.clearLatch).ibuf = s.ibuf := rfl
@[simp] theorem State.clearLatch_ipos : (s.clearLatch).ipos = s.ipos := rfl
@[simp] theorem State.clearLatch_obuf : (s.clearLatch).obuf = s.obuf := rfl
@[simp] theorem State.clearLatch_bbuf : (s.clearLatch).bbuf = s.bbuf := rfl
@[simp] theorem State.clearLatch_root : (s.clearLatch).root = s.root := rfl
@[simp] theorem State.clearLatch_err : (s.clearLatch).err = 0#8 := rfl
@[simp] theorem State.clearLatch_errcmd : (s.clearLatch).errcmd = 0#16 := rfl
@[simp] theorem State.clearLatch_fcOpen : (s.clearLatch).fcOpen = s.fcOpen := rfl
@[simp] theorem State.clearLatch_treeValid : (s.clearLatch).treeValid = s.treeValid := rfl
@[simp] theorem State.clearLatch_ctValid : (s.clearLatch).ctValid = s.ctValid := rfl
@[simp] theorem State.clearLatch_freq : (s.clearLatch).freq = s.freq := rfl
@[simp] theorem State.clearLatch_nodes : (s.clearLatch).nodes = s.nodes := rfl
@[simp] theorem State.clearLatch_ct : (s.clearLatch).ct = s.ct := rfl
@[simp] theorem State.clearLatch_caps : (s.clearLatch).caps = s.caps := rfl
@[simp] theorem State.clearLatch_hostQueue : (s.clearLatch).hostQueue = s.hostQueue := rfl

/-! ### `advance` -/

@[simp] theorem State.advance_len (n : Nat) : (s.advance n).len = s.len := rfl
@[simp] theorem State.advance_ibuf (n : Nat) : (s.advance n).ibuf = s.ibuf := rfl
@[simp] theorem State.advance_ipos (n : Nat) : (s.advance n).ipos = s.ipos + n := rfl
@[simp] theorem State.advance_obuf (n : Nat) : (s.advance n).obuf = s.obuf := rfl
@[simp] theorem State.advance_bbuf (n : Nat) : (s.advance n).bbuf = s.bbuf := rfl
@[simp] theorem State.advance_root (n : Nat) : (s.advance n).root = s.root := rfl
@[simp] theorem State.advance_err (n : Nat) : (s.advance n).err = s.err := rfl
@[simp] theorem State.advance_errcmd (n : Nat) : (s.advance n).errcmd = s.errcmd := rfl
@[simp] theorem State.advance_fcOpen (n : Nat) : (s.advance n).fcOpen = s.fcOpen := rfl
@[simp] theorem State.advance_treeValid (n : Nat) : (s.advance n).treeValid = s.treeValid := rfl
@[simp] theorem State.advance_ctValid (n : Nat) : (s.advance n).ctValid = s.ctValid := rfl
@[simp] theorem State.advance_freq (n : Nat) : (s.advance n).freq = s.freq := rfl
@[simp] theorem State.advance_nodes (n : Nat) : (s.advance n).nodes = s.nodes := rfl
@[simp] theorem State.advance_ct (n : Nat) : (s.advance n).ct = s.ct := rfl
@[simp] theorem State.advance_caps (n : Nat) : (s.advance n).caps = s.caps := rfl
@[simp] theorem State.advance_hostQueue (n : Nat) : (s.advance n).hostQueue = s.hostQueue := rfl

/-! ### `consumeAll` -/

@[simp] theorem State.consumeAll_len : (s.consumeAll).len = s.len := rfl
@[simp] theorem State.consumeAll_ibuf : (s.consumeAll).ibuf = s.ibuf := rfl
@[simp] theorem State.consumeAll_ipos : (s.consumeAll).ipos = s.ilen := rfl
@[simp] theorem State.consumeAll_obuf : (s.consumeAll).obuf = s.obuf := rfl
@[simp] theorem State.consumeAll_bbuf : (s.consumeAll).bbuf = s.bbuf := rfl
@[simp] theorem State.consumeAll_root : (s.consumeAll).root = s.root := rfl
@[simp] theorem State.consumeAll_err : (s.consumeAll).err = s.err := rfl
@[simp] theorem State.consumeAll_errcmd : (s.consumeAll).errcmd = s.errcmd := rfl
@[simp] theorem State.consumeAll_fcOpen : (s.consumeAll).fcOpen = s.fcOpen := rfl
@[simp] theorem State.consumeAll_treeValid : (s.consumeAll).treeValid = s.treeValid := rfl
@[simp] theorem State.consumeAll_ctValid : (s.consumeAll).ctValid = s.ctValid := rfl
@[simp] theorem State.consumeAll_freq : (s.consumeAll).freq = s.freq := rfl
@[simp] theorem State.consumeAll_nodes : (s.consumeAll).nodes = s.nodes := rfl
@[simp] theorem State.consumeAll_ct : (s.consumeAll).ct = s.ct := rfl
@[simp] theorem State.consumeAll_caps : (s.consumeAll).caps = s.caps := rfl
@[simp] theorem State.consumeAll_hostQueue : (s.consumeAll).hostQueue = s.hostQueue := rfl

/-! ### `putInput` -/

@[simp] theorem State.putInput_len (bytes : List Byte) (pos : Nat) : (s.putInput bytes pos).len = s.len := rfl
@[simp] theorem State.putInput_ibuf (bytes : List Byte) (pos : Nat) : (s.putInput bytes pos).ibuf = bytes := rfl
@[simp] theorem State.putInput_ipos (bytes : List Byte) (pos : Nat) : (s.putInput bytes pos).ipos = pos := rfl
@[simp] theorem State.putInput_obuf (bytes : List Byte) (pos : Nat) : (s.putInput bytes pos).obuf = s.obuf := rfl
@[simp] theorem State.putInput_bbuf (bytes : List Byte) (pos : Nat) : (s.putInput bytes pos).bbuf = s.bbuf := rfl
@[simp] theorem State.putInput_root (bytes : List Byte) (pos : Nat) : (s.putInput bytes pos).root = s.root := rfl
@[simp] theorem State.putInput_err (bytes : List Byte) (pos : Nat) : (s.putInput bytes pos).err = s.err := rfl
@[simp] theorem State.putInput_errcmd (bytes : List Byte) (pos : Nat) : (s.putInput bytes pos).errcmd = s.errcmd := rfl
@[simp] theorem State.putInput_fcOpen (bytes : List Byte) (pos : Nat) : (s.putInput bytes pos).fcOpen = s.fcOpen := rfl
@[simp] theorem State.putInput_treeValid (bytes : List Byte) (pos : Nat) : (s.putInput bytes pos).treeValid = s.treeValid := rfl
@[simp] theorem State.putInput_ctValid (bytes : List Byte) (pos : Nat) : (s.putInput bytes pos).ctValid = s.ctValid := rfl
@[simp] theorem State.putInput_freq (bytes : List Byte) (pos : Nat) : (s.putInput bytes pos).freq = s.freq := rfl
@[simp] theorem State.putInput_nodes (bytes : List Byte) (pos : Nat) : (s.putInput bytes pos).nodes = s.nodes := rfl
@[simp] theorem State.putInput_ct (bytes : List Byte) (pos : Nat) : (s.putInput bytes pos).ct = s.ct := rfl
@[simp] theorem State.putInput_caps (bytes : List Byte) (pos : Nat) : (s.putInput bytes pos).caps = s.caps := rfl
@[simp] theorem State.putInput_hostQueue (bytes : List Byte) (pos : Nat) : (s.putInput bytes pos).hostQueue = s.hostQueue := rfl

/-! ### `putLen` -/

@[simp] theorem State.putLen_len (v : Len) : (s.putLen v).len = v := rfl
@[simp] theorem State.putLen_ibuf (v : Len) : (s.putLen v).ibuf = s.ibuf := rfl
@[simp] theorem State.putLen_ipos (v : Len) : (s.putLen v).ipos = s.ipos := rfl
@[simp] theorem State.putLen_obuf (v : Len) : (s.putLen v).obuf = s.obuf := rfl
@[simp] theorem State.putLen_bbuf (v : Len) : (s.putLen v).bbuf = s.bbuf := rfl
@[simp] theorem State.putLen_root (v : Len) : (s.putLen v).root = s.root := rfl
@[simp] theorem State.putLen_err (v : Len) : (s.putLen v).err = s.err := rfl
@[simp] theorem State.putLen_errcmd (v : Len) : (s.putLen v).errcmd = s.errcmd := rfl
@[simp] theorem State.putLen_fcOpen (v : Len) : (s.putLen v).fcOpen = s.fcOpen := rfl
@[simp] theorem State.putLen_treeValid (v : Len) : (s.putLen v).treeValid = s.treeValid := rfl
@[simp] theorem State.putLen_ctValid (v : Len) : (s.putLen v).ctValid = s.ctValid := rfl
@[simp] theorem State.putLen_freq (v : Len) : (s.putLen v).freq = s.freq := rfl
@[simp] theorem State.putLen_nodes (v : Len) : (s.putLen v).nodes = s.nodes := rfl
@[simp] theorem State.putLen_ct (v : Len) : (s.putLen v).ct = s.ct := rfl
@[simp] theorem State.putLen_caps (v : Len) : (s.putLen v).caps = s.caps := rfl
@[simp] theorem State.putLen_hostQueue (v : Len) : (s.putLen v).hostQueue = s.hostQueue := rfl

/-! ### `putObuf` -/

@[simp] theorem State.putObuf_len (bytes : List Byte) : (s.putObuf bytes).len = s.len := rfl
@[simp] theorem State.putObuf_ibuf (bytes : List Byte) : (s.putObuf bytes).ibuf = s.ibuf := rfl
@[simp] theorem State.putObuf_ipos (bytes : List Byte) : (s.putObuf bytes).ipos = s.ipos := rfl
@[simp] theorem State.putObuf_obuf (bytes : List Byte) : (s.putObuf bytes).obuf = bytes := rfl
@[simp] theorem State.putObuf_bbuf (bytes : List Byte) : (s.putObuf bytes).bbuf = s.bbuf := rfl
@[simp] theorem State.putObuf_root (bytes : List Byte) : (s.putObuf bytes).root = s.root := rfl
@[simp] theorem State.putObuf_err (bytes : List Byte) : (s.putObuf bytes).err = s.err := rfl
@[simp] theorem State.putObuf_errcmd (bytes : List Byte) : (s.putObuf bytes).errcmd = s.errcmd := rfl
@[simp] theorem State.putObuf_fcOpen (bytes : List Byte) : (s.putObuf bytes).fcOpen = s.fcOpen := rfl
@[simp] theorem State.putObuf_treeValid (bytes : List Byte) : (s.putObuf bytes).treeValid = s.treeValid := rfl
@[simp] theorem State.putObuf_ctValid (bytes : List Byte) : (s.putObuf bytes).ctValid = s.ctValid := rfl
@[simp] theorem State.putObuf_freq (bytes : List Byte) : (s.putObuf bytes).freq = s.freq := rfl
@[simp] theorem State.putObuf_nodes (bytes : List Byte) : (s.putObuf bytes).nodes = s.nodes := rfl
@[simp] theorem State.putObuf_ct (bytes : List Byte) : (s.putObuf bytes).ct = s.ct := rfl
@[simp] theorem State.putObuf_caps (bytes : List Byte) : (s.putObuf bytes).caps = s.caps := rfl
@[simp] theorem State.putObuf_hostQueue (bytes : List Byte) : (s.putObuf bytes).hostQueue = s.hostQueue := rfl

/-! ### `putBbuf` -/

@[simp] theorem State.putBbuf_len (bits : List Bit) : (s.putBbuf bits).len = s.len := rfl
@[simp] theorem State.putBbuf_ibuf (bits : List Bit) : (s.putBbuf bits).ibuf = s.ibuf := rfl
@[simp] theorem State.putBbuf_ipos (bits : List Bit) : (s.putBbuf bits).ipos = s.ipos := rfl
@[simp] theorem State.putBbuf_obuf (bits : List Bit) : (s.putBbuf bits).obuf = s.obuf := rfl
@[simp] theorem State.putBbuf_bbuf (bits : List Bit) : (s.putBbuf bits).bbuf = bits := rfl
@[simp] theorem State.putBbuf_root (bits : List Bit) : (s.putBbuf bits).root = s.root := rfl
@[simp] theorem State.putBbuf_err (bits : List Bit) : (s.putBbuf bits).err = s.err := rfl
@[simp] theorem State.putBbuf_errcmd (bits : List Bit) : (s.putBbuf bits).errcmd = s.errcmd := rfl
@[simp] theorem State.putBbuf_fcOpen (bits : List Bit) : (s.putBbuf bits).fcOpen = s.fcOpen := rfl
@[simp] theorem State.putBbuf_treeValid (bits : List Bit) : (s.putBbuf bits).treeValid = s.treeValid := rfl
@[simp] theorem State.putBbuf_ctValid (bits : List Bit) : (s.putBbuf bits).ctValid = s.ctValid := rfl
@[simp] theorem State.putBbuf_freq (bits : List Bit) : (s.putBbuf bits).freq = s.freq := rfl
@[simp] theorem State.putBbuf_nodes (bits : List Bit) : (s.putBbuf bits).nodes = s.nodes := rfl
@[simp] theorem State.putBbuf_ct (bits : List Bit) : (s.putBbuf bits).ct = s.ct := rfl
@[simp] theorem State.putBbuf_caps (bits : List Bit) : (s.putBbuf bits).caps = s.caps := rfl
@[simp] theorem State.putBbuf_hostQueue (bits : List Bit) : (s.putBbuf bits).hostQueue = s.hostQueue := rfl

/-! ### `putFreq` -/

@[simp] theorem State.putFreq_len (f : FreqFile) : (s.putFreq f).len = s.len := rfl
@[simp] theorem State.putFreq_ibuf (f : FreqFile) : (s.putFreq f).ibuf = s.ibuf := rfl
@[simp] theorem State.putFreq_ipos (f : FreqFile) : (s.putFreq f).ipos = s.ipos := rfl
@[simp] theorem State.putFreq_obuf (f : FreqFile) : (s.putFreq f).obuf = s.obuf := rfl
@[simp] theorem State.putFreq_bbuf (f : FreqFile) : (s.putFreq f).bbuf = s.bbuf := rfl
@[simp] theorem State.putFreq_root (f : FreqFile) : (s.putFreq f).root = s.root := rfl
@[simp] theorem State.putFreq_err (f : FreqFile) : (s.putFreq f).err = s.err := rfl
@[simp] theorem State.putFreq_errcmd (f : FreqFile) : (s.putFreq f).errcmd = s.errcmd := rfl
@[simp] theorem State.putFreq_fcOpen (f : FreqFile) : (s.putFreq f).fcOpen = s.fcOpen := rfl
@[simp] theorem State.putFreq_treeValid (f : FreqFile) : (s.putFreq f).treeValid = s.treeValid := rfl
@[simp] theorem State.putFreq_ctValid (f : FreqFile) : (s.putFreq f).ctValid = s.ctValid := rfl
@[simp] theorem State.putFreq_freq (f : FreqFile) : (s.putFreq f).freq = f := rfl
@[simp] theorem State.putFreq_nodes (f : FreqFile) : (s.putFreq f).nodes = s.nodes := rfl
@[simp] theorem State.putFreq_ct (f : FreqFile) : (s.putFreq f).ct = s.ct := rfl
@[simp] theorem State.putFreq_caps (f : FreqFile) : (s.putFreq f).caps = s.caps := rfl
@[simp] theorem State.putFreq_hostQueue (f : FreqFile) : (s.putFreq f).hostQueue = s.hostQueue := rfl

/-! ### `putTree` -/

@[simp] theorem State.putTree_len (a : Arena) (r : NodeId) : (s.putTree a r).len = s.len := rfl
@[simp] theorem State.putTree_ibuf (a : Arena) (r : NodeId) : (s.putTree a r).ibuf = s.ibuf := rfl
@[simp] theorem State.putTree_ipos (a : Arena) (r : NodeId) : (s.putTree a r).ipos = s.ipos := rfl
@[simp] theorem State.putTree_obuf (a : Arena) (r : NodeId) : (s.putTree a r).obuf = s.obuf := rfl
@[simp] theorem State.putTree_bbuf (a : Arena) (r : NodeId) : (s.putTree a r).bbuf = s.bbuf := rfl
@[simp] theorem State.putTree_root (a : Arena) (r : NodeId) : (s.putTree a r).root = r := rfl
@[simp] theorem State.putTree_err (a : Arena) (r : NodeId) : (s.putTree a r).err = s.err := rfl
@[simp] theorem State.putTree_errcmd (a : Arena) (r : NodeId) : (s.putTree a r).errcmd = s.errcmd := rfl
@[simp] theorem State.putTree_fcOpen (a : Arena) (r : NodeId) : (s.putTree a r).fcOpen = s.fcOpen := rfl
@[simp] theorem State.putTree_treeValid (a : Arena) (r : NodeId) : (s.putTree a r).treeValid = s.treeValid := rfl
@[simp] theorem State.putTree_ctValid (a : Arena) (r : NodeId) : (s.putTree a r).ctValid = s.ctValid := rfl
@[simp] theorem State.putTree_freq (a : Arena) (r : NodeId) : (s.putTree a r).freq = s.freq := rfl
@[simp] theorem State.putTree_nodes (a : Arena) (r : NodeId) : (s.putTree a r).nodes = a := rfl
@[simp] theorem State.putTree_ct (a : Arena) (r : NodeId) : (s.putTree a r).ct = s.ct := rfl
@[simp] theorem State.putTree_caps (a : Arena) (r : NodeId) : (s.putTree a r).caps = s.caps := rfl
@[simp] theorem State.putTree_hostQueue (a : Arena) (r : NodeId) : (s.putTree a r).hostQueue = s.hostQueue := rfl

/-! ### `putCt` -/

@[simp] theorem State.putCt_len (T : CodeTable) : (s.putCt T).len = s.len := rfl
@[simp] theorem State.putCt_ibuf (T : CodeTable) : (s.putCt T).ibuf = s.ibuf := rfl
@[simp] theorem State.putCt_ipos (T : CodeTable) : (s.putCt T).ipos = s.ipos := rfl
@[simp] theorem State.putCt_obuf (T : CodeTable) : (s.putCt T).obuf = s.obuf := rfl
@[simp] theorem State.putCt_bbuf (T : CodeTable) : (s.putCt T).bbuf = s.bbuf := rfl
@[simp] theorem State.putCt_root (T : CodeTable) : (s.putCt T).root = s.root := rfl
@[simp] theorem State.putCt_err (T : CodeTable) : (s.putCt T).err = s.err := rfl
@[simp] theorem State.putCt_errcmd (T : CodeTable) : (s.putCt T).errcmd = s.errcmd := rfl
@[simp] theorem State.putCt_fcOpen (T : CodeTable) : (s.putCt T).fcOpen = s.fcOpen := rfl
@[simp] theorem State.putCt_treeValid (T : CodeTable) : (s.putCt T).treeValid = s.treeValid := rfl
@[simp] theorem State.putCt_ctValid (T : CodeTable) : (s.putCt T).ctValid = s.ctValid := rfl
@[simp] theorem State.putCt_freq (T : CodeTable) : (s.putCt T).freq = s.freq := rfl
@[simp] theorem State.putCt_nodes (T : CodeTable) : (s.putCt T).nodes = s.nodes := rfl
@[simp] theorem State.putCt_ct (T : CodeTable) : (s.putCt T).ct = T := rfl
@[simp] theorem State.putCt_caps (T : CodeTable) : (s.putCt T).caps = s.caps := rfl
@[simp] theorem State.putCt_hostQueue (T : CodeTable) : (s.putCt T).hostQueue = s.hostQueue := rfl

/-! ### `setFcOpen` -/

@[simp] theorem State.setFcOpen_len (v : Bool) : (s.setFcOpen v).len = s.len := rfl
@[simp] theorem State.setFcOpen_ibuf (v : Bool) : (s.setFcOpen v).ibuf = s.ibuf := rfl
@[simp] theorem State.setFcOpen_ipos (v : Bool) : (s.setFcOpen v).ipos = s.ipos := rfl
@[simp] theorem State.setFcOpen_obuf (v : Bool) : (s.setFcOpen v).obuf = s.obuf := rfl
@[simp] theorem State.setFcOpen_bbuf (v : Bool) : (s.setFcOpen v).bbuf = s.bbuf := rfl
@[simp] theorem State.setFcOpen_root (v : Bool) : (s.setFcOpen v).root = s.root := rfl
@[simp] theorem State.setFcOpen_err (v : Bool) : (s.setFcOpen v).err = s.err := rfl
@[simp] theorem State.setFcOpen_errcmd (v : Bool) : (s.setFcOpen v).errcmd = s.errcmd := rfl
@[simp] theorem State.setFcOpen_fcOpen (v : Bool) : (s.setFcOpen v).fcOpen = v := rfl
@[simp] theorem State.setFcOpen_treeValid (v : Bool) : (s.setFcOpen v).treeValid = s.treeValid := rfl
@[simp] theorem State.setFcOpen_ctValid (v : Bool) : (s.setFcOpen v).ctValid = s.ctValid := rfl
@[simp] theorem State.setFcOpen_freq (v : Bool) : (s.setFcOpen v).freq = s.freq := rfl
@[simp] theorem State.setFcOpen_nodes (v : Bool) : (s.setFcOpen v).nodes = s.nodes := rfl
@[simp] theorem State.setFcOpen_ct (v : Bool) : (s.setFcOpen v).ct = s.ct := rfl
@[simp] theorem State.setFcOpen_caps (v : Bool) : (s.setFcOpen v).caps = s.caps := rfl
@[simp] theorem State.setFcOpen_hostQueue (v : Bool) : (s.setFcOpen v).hostQueue = s.hostQueue := rfl

/-! ### `markTree` -/

@[simp] theorem State.markTree_len : (s.markTree).len = s.len := rfl
@[simp] theorem State.markTree_ibuf : (s.markTree).ibuf = s.ibuf := rfl
@[simp] theorem State.markTree_ipos : (s.markTree).ipos = s.ipos := rfl
@[simp] theorem State.markTree_obuf : (s.markTree).obuf = s.obuf := rfl
@[simp] theorem State.markTree_bbuf : (s.markTree).bbuf = s.bbuf := rfl
@[simp] theorem State.markTree_root : (s.markTree).root = s.root := rfl
@[simp] theorem State.markTree_err : (s.markTree).err = s.err := rfl
@[simp] theorem State.markTree_errcmd : (s.markTree).errcmd = s.errcmd := rfl
@[simp] theorem State.markTree_fcOpen : (s.markTree).fcOpen = s.fcOpen := rfl
@[simp] theorem State.markTree_treeValid : (s.markTree).treeValid = true := rfl
@[simp] theorem State.markTree_ctValid : (s.markTree).ctValid = s.ctValid := rfl
@[simp] theorem State.markTree_freq : (s.markTree).freq = s.freq := rfl
@[simp] theorem State.markTree_nodes : (s.markTree).nodes = s.nodes := rfl
@[simp] theorem State.markTree_ct : (s.markTree).ct = s.ct := rfl
@[simp] theorem State.markTree_caps : (s.markTree).caps = s.caps := rfl
@[simp] theorem State.markTree_hostQueue : (s.markTree).hostQueue = s.hostQueue := rfl

/-! ### `markTable` -/

@[simp] theorem State.markTable_len : (s.markTable).len = s.len := rfl
@[simp] theorem State.markTable_ibuf : (s.markTable).ibuf = s.ibuf := rfl
@[simp] theorem State.markTable_ipos : (s.markTable).ipos = s.ipos := rfl
@[simp] theorem State.markTable_obuf : (s.markTable).obuf = s.obuf := rfl
@[simp] theorem State.markTable_bbuf : (s.markTable).bbuf = s.bbuf := rfl
@[simp] theorem State.markTable_root : (s.markTable).root = s.root := rfl
@[simp] theorem State.markTable_err : (s.markTable).err = s.err := rfl
@[simp] theorem State.markTable_errcmd : (s.markTable).errcmd = s.errcmd := rfl
@[simp] theorem State.markTable_fcOpen : (s.markTable).fcOpen = s.fcOpen := rfl
@[simp] theorem State.markTable_treeValid : (s.markTable).treeValid = s.treeValid := rfl
@[simp] theorem State.markTable_ctValid : (s.markTable).ctValid = true := rfl
@[simp] theorem State.markTable_freq : (s.markTable).freq = s.freq := rfl
@[simp] theorem State.markTable_nodes : (s.markTable).nodes = s.nodes := rfl
@[simp] theorem State.markTable_ct : (s.markTable).ct = s.ct := rfl
@[simp] theorem State.markTable_caps : (s.markTable).caps = s.caps := rfl
@[simp] theorem State.markTable_hostQueue : (s.markTable).hostQueue = s.hostQueue := rfl

/-! ### `restart` (R146, R170) -/

@[simp] theorem State.restart_len : s.restart.len = 0#64 := rfl
@[simp] theorem State.restart_ibuf : s.restart.ibuf = [] := rfl
@[simp] theorem State.restart_ipos : s.restart.ipos = 0 := rfl
@[simp] theorem State.restart_obuf : s.restart.obuf = [] := rfl
@[simp] theorem State.restart_bbuf : s.restart.bbuf = [] := rfl
@[simp] theorem State.restart_root : s.restart.root = 0 := rfl
@[simp] theorem State.restart_err : s.restart.err = 0#8 := rfl
@[simp] theorem State.restart_errcmd : s.restart.errcmd = 0#16 := rfl
@[simp] theorem State.restart_fcOpen : s.restart.fcOpen = true := rfl
@[simp] theorem State.restart_treeValid : s.restart.treeValid = false := rfl
@[simp] theorem State.restart_ctValid : s.restart.ctValid = false := rfl
@[simp] theorem State.restart_freq : s.restart.freq = Vector.replicate Config.symN 0#64 := rfl
@[simp] theorem State.restart_nodes : s.restart.nodes = Vector.replicate Config.nodeN .unused := rfl
@[simp] theorem State.restart_ct : s.restart.ct = Vector.replicate Config.symN none := rfl
@[simp] theorem State.restart_caps : s.restart.caps = s.caps := rfl
@[simp] theorem State.restart_hostQueue : s.restart.hostQueue = s.hostQueue := rfl

/-! ### Views -/

theorem State.ilen_eq : s.ilen = s.ibuf.length := rfl
theorem State.olen_eq : s.olen = s.obuf.length := rfl
theorem State.blen_eq : s.blen = s.bbuf.length := rfl
theorem State.unread_eq : s.unread = s.ibuf.drop s.ipos := rfl

/-- The unread input has `ILEN - IPOS` bytes (R17). -/
theorem State.unread_length : s.unread.length = s.ilen - s.ipos := by
  simp [State.unread, State.ilen]

/-- A fault is latched exactly when ERR is not 0 (R26). -/
theorem State.latched_iff : s.latched = true ↔ s.err ≠ 0#8 := by
  simp [State.latched]

/-- No fault is latched exactly when ERR is 0 (R26). -/
theorem State.not_latched_iff : s.latched = false ↔ s.err = 0#8 := by
  simp [State.latched]

end Sys2Proof.Machine
end

