-- ==== Sys2Proof/Laws/Ops.lean ====
section
/-! SUPPORT. What each shared operation of Ops and Operands can do, said once. -/

namespace Sys2Proof.Machine

/-! ### Capacities and requirements -/

@[simp] theorem capacityAdmits_unbounded (n : Nat) : capacityAdmits .unbounded n = true := rfl

@[simp] theorem capacityAdmits_limit (m : BitVec 64) (n : Nat) :
    capacityAdmits (.limit m) n = decide (n ≤ m.toNat) := rfl

/-- What fits still fits when it is shorter. -/
theorem capacityAdmits_mono {c : Capacity} {m n : Nat} (h : m ≤ n)
    (hn : capacityAdmits c n = true) : capacityAdmits c m = true := by
  cases c with
  | unbounded => rfl
  | limit k =>
    simp only [capacityAdmits_limit, decide_eq_true_eq] at hn ⊢
    omega

@[simp] theorem require_true (cause : FaultCause) : require true cause = .ok () := rfl

@[simp] theorem require_false (cause : FaultCause) : require false cause = .error cause := rfl

/-- A requirement followed by the rest of a command: the rest if it holds, else the fault. -/
theorem require_bind {α : Type} (c : Bool) (cause : FaultCause)
    (k : Unit → Except FaultCause α) :
    (require c cause >>= k) = if c then k () else .error cause := by
  cases c <;> rfl

/-- A command whose first requirement holds goes on, and conversely. -/
theorem require_bind_ok {α : Type} {c : Bool} {cause : FaultCause}
    {k : Unit → Except FaultCause α} {x : α} :
    (require c cause >>= k) = .ok x ↔ c = true ∧ k () = .ok x := by
  rw [require_bind]
  cases c <;> simp

/-- A step of a command followed by the rest succeeds exactly when both do. -/
theorem bind_ok {α β : Type} {m : Except FaultCause α} {k : α → Except FaultCause β} {y : β} :
    (m >>= k) = .ok y ↔ ∃ x, m = .ok x ∧ k x = .ok y := by
  cases m with
  | ok x => simp [bind, Except.bind]
  | error e => simp [bind, Except.bind]

/-! ### The register files -/

@[simp] theorem fileGet_replicate {α : Type} (x : α) (b : Byte) :
    fileGet (Vector.replicate Config.symN x) b = x := by
  simp [fileGet]

/-- A read after a write to a file gives the value written there and the old value elsewhere. -/
theorem fileGet_fileSet {α : Type} (v : Vector α Config.symN) (b c : Byte) (x : α) :
    fileGet (fileSet v b x) c = if c = b then x else fileGet v c := by
  unfold fileGet fileSet
  rw [Vector.getElem_set]
  by_cases h : c = b
  · simp [h]
  · have : b.toNat ≠ c.toNat := fun e => h (BitVec.eq_of_toNat_eq e.symm)
    simp [h, this]

@[simp] theorem fileGet_fileSet_self {α : Type} (v : Vector α Config.symN) (b : Byte) (x : α) :
    fileGet (fileSet v b x) b = x := by
  simp [fileGet_fileSet]

/-- Two files are equal when all their elements are. -/
theorem file_ext {α : Type} {v w : Vector α Config.symN} (h : ∀ b, fileGet v b = fileGet w b) :
    v = w := by
  apply Vector.ext
  intro i hi
  have := h (BitVec.ofNat 8 i)
  simpa [fileGet, Nat.mod_eq_of_lt hi] using this

@[simp] theorem tabulate_getElem {α : Type} (n : Nat) (f : Nat → α) (i : Nat) (hi : i < n) :
    (tabulate n f)[i] = f i := by
  simp [tabulate]

@[simp] theorem fileGet_tabulate {α : Type} (f : Nat → α) (b : Byte) :
    fileGet (tabulate Config.symN f) b = f b.toNat := by
  simp [fileGet]

@[simp] theorem nodeGet_replicate (n : Node) (i : NodeId) :
    nodeGet (Vector.replicate Config.nodeN n) i = n := by
  simp [nodeGet]

/-- A read after a write to the arena gives the node written there and the old node elsewhere. -/
theorem nodeGet_nodeSet (a : Arena) (i j : NodeId) (n : Node) :
    nodeGet (nodeSet a i n) j = if j = i then n else nodeGet a j := by
  unfold nodeGet nodeSet
  rw [Vector.getElem_set]
  by_cases h : j = i
  · simp [h]
  · have : i.val ≠ j.val := fun e => h (Fin.ext e.symm)
    simp [h, this]

@[simp] theorem nodeGet_tabulate (f : Nat → Node) (i : NodeId) :
    nodeGet (tabulate Config.nodeN f) i = f i.val := by
  simp [nodeGet]

/-- Two arenas are equal when all their nodes are. -/
theorem arena_ext {a b : Arena} (h : ∀ i, nodeGet a i = nodeGet b i) : a = b := by
  apply Vector.ext
  intro i hi
  exact h ⟨i, hi⟩

/-! ### Buffers -/

/-- Appending one element leaves every element below the old length, and puts the new one at it. -/
theorem memRead_memAppend {α : Type} (buf : List α) (v : α) (i : Nat) :
    memRead (memAppend buf v) i =
      if i < buf.length then memRead buf i else if i = buf.length then some v else none := by
  unfold memRead memAppend
  by_cases h : i < buf.length
  · simp [h, List.getElem?_append_left h]
  · rw [List.getElem?_append_right (by omega)]
    by_cases h' : i = buf.length
    · simp [h']
    · have : i - buf.length ≠ 0 := by omega
      simp [h, h', List.getElem?_eq_none (l := [v]) (i := i - buf.length) (by simp; omega)]

/-- The checked write of OBUF: the bytes if they fit, else CapacityFault (R53). -/
theorem writeObuf_eq (s : State) (bytes : List Byte) :
    s.writeObuf bytes =
      if s.obufAdmits bytes.length then .ok (s.putObuf bytes) else .error .capacity := by
  unfold State.writeObuf
  rw [require_bind]
  rfl

/-- The checked write of BBUF: the bits if they fit, else CapacityFault (R53). -/
theorem writeBbuf_eq (s : State) (bits : List Bit) :
    s.writeBbuf bits =
      if s.bbufAdmits bits.length then .ok (s.putBbuf bits) else .error .capacity := by
  unfold State.writeBbuf
  rw [require_bind]
  rfl

/-! ### Executing one command -/

/-- A latched fault discards every command but ECLR and SRST (R63 step 1). -/
theorem issue_latched {i : Instr} {op : State → Except FaultCause State} {s : State}
    (h : s.err ≠ 0#8) (hi : runsLatched i = false) : issue i op s = .next s := by
  simp [issue, (State.latched_iff s).2 h, hi]

/-- A command that may run and raises no fault is committed (R63 step 5). -/
theorem issue_ok {i : Instr} {op : State → Except FaultCause State} {s t : State}
    (h : s.err = 0#8 ∨ runsLatched i = true) (ht : op s = .ok t) : issue i op s = .next t := by
  rcases h with h | h
  · simp [issue, (State.not_latched_iff s).2 h, ht]
  · simp [issue, h, ht]

/-- A command that may run and raises a fault takes it in the state as it was (R159). -/
theorem issue_error {i : Instr} {op : State → Except FaultCause State} {s : State}
    {cause : FaultCause} (h : s.err = 0#8 ∨ runsLatched i = true) (ht : op s = .error cause) :
    issue i op s = .next (s.raise cause (encode i)) := by
  rcases h with h | h
  · simp [issue, (State.not_latched_iff s).2 h, ht]
  · simp [issue, h, ht]

/-- Everything a command can do: be discarded, commit, or take one fault. -/
theorem issue_cases {i : Instr} {op : State → Except FaultCause State} {s t : State}
    (h : issue i op s = .next t) :
    (s.err ≠ 0#8 ∧ runsLatched i = false ∧ t = s) ∨
    ((s.err = 0#8 ∨ runsLatched i = true) ∧ op s = .ok t) ∨
    ((s.err = 0#8 ∨ runsLatched i = true) ∧
      ∃ cause, op s = .error cause ∧ t = s.raise cause (encode i)) := by
  by_cases hr : runsLatched i = true
  · cases ho : op s with
    | ok u => rw [issue_ok (.inr hr) ho] at h; cases h; exact .inr (.inl ⟨.inr hr, rfl⟩)
    | error c =>
      rw [issue_error (.inr hr) ho] at h; cases h
      exact .inr (.inr ⟨.inr hr, c, rfl, rfl⟩)
  · have hr' : runsLatched i = false := by simpa using hr
    by_cases he : s.err = 0#8
    · cases ho : op s with
      | ok u => rw [issue_ok (.inl he) ho] at h; cases h; exact .inr (.inl ⟨.inl he, rfl⟩)
      | error c =>
        rw [issue_error (.inl he) ho] at h; cases h
        exact .inr (.inr ⟨.inl he, c, rfl, rfl⟩)
    · rw [issue_latched he hr'] at h
      cases h
      exact .inl ⟨he, hr', rfl⟩

end Sys2Proof.Machine
end

