-- ==== Sys2Proof/Laws/PerInstr.lean ====
section
/-! SUPPORT. A law of every command, by constructor: its word matches its own row of R62. -/

namespace Sys2Proof.Laws.MatchRow

/-- The word of the command, masked as its row of R62 says, is the row's match. -/
def Statement (i : Instr) : Prop := encode i &&& i.mask = i.matchWord

theorem nop : Statement .nop := by unfold Statement; decide
theorem iclr : Statement .iclr := by unfold Statement; decide
theorem ipush (imm8 : Byte) : Statement (.ipush imm8) := by
  revert imm8; unfold Statement; decide +kernel
theorem bclr : Statement .bclr := by unfold Statement; decide
theorem bpush (imm1 : Bit) : Statement (.bpush imm1) := by
  revert imm1; unfold Statement; decide
theorem eclr : Statement .eclr := by unfold Statement; decide
theorem srst : Statement .srst := by unfold Statement; decide
theorem flatten : Statement .flatten := by unfold Statement; decide
theorem pack : Statement .pack := by unfold Statement; decide
theorem enclen : Statement .enclen := by unfold Statement; decide
theorem declen : Statement .declen := by unfold Statement; decide
theorem fnew : Statement .fnew := by unfold Statement; decide
theorem feed (imm8 : Byte) : Statement (.feed imm8) := by
  revert imm8; unfold Statement; decide +kernel
theorem finalize : Statement .finalize := by unfold Statement; decide
theorem build : Statement .build := by unfold Statement; decide
theorem gentable : Statement .gentable := by unfold Statement; decide
theorem serialize : Statement .serialize := by unfold Statement; decide
theorem deserialize : Statement .deserialize := by unfold Statement; decide
theorem encode : Statement .encode := by unfold Statement; decide
theorem compress : Statement .compress := by unfold Statement; decide
theorem assemble : Statement .assemble := by unfold Statement; decide
theorem decode : Statement .decode := by unfold Statement; decide
theorem decompress : Statement .decompress := by unfold Statement; decide

end Sys2Proof.Laws.MatchRow
end

