-- ==== Sys2Proof/Machine/Assembler.lean ====
section
/-! DEFINITION. What an assembler line stands for: the list of host actions it writes to the block
(spec/30_encoding.md rules R66, R67). -/

namespace Sys2Proof.Machine

/-- A command written to CMD as its word (R28, R60). -/
def commandAction (i : Instr) : HostAction := .command (encode i)

/-- `IPUSH n`: the operand is a byte (R66). -/
def ipushAction (n : Nat) : HostAction := commandAction (.ipush (BitVec.ofNat 8 n))

/-- `FEED n` (R66). -/
def feedAction (n : Nat) : HostAction := commandAction (.feed (BitVec.ofNat 8 n))

/-- `BPUSH n`: the operand is 0 or 1 (R66). -/
def bpushAction (n : Nat) : HostAction := commandAction (.bpush (n == 1))

/-- `SETLEN n`, the host's write of `n` to the LEN register, number 0x03 (R28, R66). -/
def setlenAction (n : Nat) : HostAction := .writeReg 0x03 (BitVec.ofNat 64 n)

/-- The host actions of a well-formed line, the pseudo-instructions expanded (R66, R67). With no operands
`FEEDS` is no action and `COUNT` is `FNEW`, `FINALIZE`, which R67 does not say (DESIGN CHOICE, log entry
24). -/
def lineActions : AsmLine → List HostAction
  | .plain i => [commandAction i]
  | .ipush n => [ipushAction n]
  | .feed n => [feedAction n]
  | .bpush n => [bpushAction n]
  | .setlen n => [setlenAction n]
  | .loadi bytes => commandAction .iclr :: bytes.map ipushAction
  | .loadb bits => commandAction .bclr :: bits.map bpushAction
  | .feeds bytes => bytes.map feedAction
  | .count bytes => commandAction .fnew :: bytes.map feedAction ++ [commandAction .finalize]
  | .compressc => [commandAction .compress, commandAction .assemble]

/-- The host actions of a program, its lines executed top to bottom (R66); none where a line is ill
formed, for which the spec gives no word. -/
def assembleProgram (lines : List AsmLine) : Option (List HostAction) :=
  if lines.all AsmLine.wellFormed then some (lines.flatMap lineActions) else none

end Sys2Proof.Machine
end

