-- ==== Sys2Proof/Safety.lean ====
section
/-! DEFINITION. What the spec promises of every state between commands (spec/10_state.md rule R31) and what a
faultless run is (spec/70_reset_and_hazards.md rule R173). -/

namespace Sys2Proof.Machine

/-- The ids of the nodes met from `i` downwards, at most `depth` levels, `i` first. -/
def reach (a : Arena) : Nat → NodeId → List NodeId
  | 0, _ => []
  | depth + 1, i =>
    i :: match nodeGet a i with
      | .internal _ l r => reach a depth l ++ reach a depth r
      | .leaf _ _ => []
      | .placeholder => []
      | .unused => []

/-- A node of KIND LEAF or INTERNAL. -/
def isLeafOrInternal : Node → Bool
  | .leaf _ _ => true
  | .internal _ _ _ => true
  | .placeholder => false
  | .unused => false

/-- The placement of R21: a leaf at its byte value, an internal node at 256 or above, the placeholder at
256. -/
def placedAt (i : NodeId) : Node → Bool
  | .leaf v _ => i.val == v.toNat
  | .internal _ _ _ => decide (256 ≤ i.val)
  | .placeholder => i.val == 256
  | .unused => true

/-- What R31 promises of the arena and ROOT while TREE_VALID = 1, with the placement of R21. -/
structure TreeShape (a : Arena) (root : NodeId) : Prop where
  /-- `NODE[ROOT].KIND` is LEAF, INTERNAL or PLACEHOLDER. -/
  rootUsed : nodeGet a root ≠ .unused
  /-- Every INTERNAL node's LEFT and RIGHT name nodes of KIND LEAF or INTERNAL with smaller ids. -/
  children : ∀ i w l r, nodeGet a i = .internal w l r →
    l < i ∧ r < i ∧ isLeafOrInternal (nodeGet a l) = true ∧ isLeafOrInternal (nodeGet a r) = true
  /-- The nodes reachable from ROOT form a tree: none is met twice. -/
  noneTwice : (reach a (Config.codeMax + 1) root).Nodup
  /-- Every used node is reachable from ROOT. -/
  allReached : ∀ i, nodeGet a i ≠ .unused → i ∈ reach a (Config.codeMax + 1) root
  /-- The placement of R21. -/
  placed : ∀ i, placedAt i (nodeGet a i) = true

/-- Every code of the table has at most 255 bits, so that it fits CLEN and CODE (R23, R31). -/
def CodesFit (T : CodeTable) : Prop :=
  ∀ b code, fileGet T b = some code → code.length ≤ Config.codeMax

/-- The state invariants a model may rely on between commands (R31). -/
structure State.Inv (s : State) : Prop where
  cursor : s.ipos ≤ s.ilen
  ibufFits : s.ibufAdmits s.ilen = true
  obufFits : s.obufAdmits s.olen = true
  bbufFits : s.bbufAdmits s.blen = true
  errLegal : s.err.toNat ≤ 7
  tree : s.treeValid = true → TreeShape s.nodes s.root
  table : s.ctValid = true → CodesFit s.ct

/-- A run of `n` host actions from `s` is faultless: ERR = 0 at its end and at every point in it (R173). -/
def Faultless (n : Nat) (s : State) : Prop :=
  ∀ k, k ≤ n → ∃ t, Host.Core.run core k s = .next t ∧ t.err = 0#8

end Sys2Proof.Machine
end

