-- ==== Sys2Proof/Certificates/Slice0/Obligations.lean ====
section
/-! DEFINITION. The statements for the provers, each formalising rules of spec/. The helpers below restate the
spec's own words (capacities, the opcode map, the grammar, the merge relation, the decoding loop) without
the model's functions, so that a statement says what the rule says and not what the model does. -/

namespace Sys2Proof.Certificates

open Sys2Proof.Machine

/-! ### Words of the statements -/

/-- A result of `n` elements fits a capacity: the capacity is unbounded or at least `n` (R4, R158). -/
def fits : Capacity → Nat → Prop
  | .unbounded, _ => True
  | .limit m, n => n ≤ m.toNat

/-- The state a fault with this code leaves: ERR and ERRCMD written, nothing else (R159). -/
def faulted (s : State) (code : BitVec 8) (w : CmdWord) : State :=
  { s with err := code, errcmd := w }

/-- Every piece of state the table of R170 gives a reset value has it, and what R170 leaves unspecified
(NODE, CT and the buffers' contents) is unobservable. -/
def HoldsResetValues (t : State) : Prop :=
  t.len = 0#64 ∧ t.ibuf = [] ∧ t.ipos = 0 ∧ t.obuf = [] ∧ t.bbuf = [] ∧ t.root = 0 ∧
  t.err = 0#8 ∧ t.errcmd = 0#16 ∧ t.fcOpen = true ∧ t.treeValid = false ∧ t.ctValid = false ∧
  (∀ b, fileGet t.freq b = 0#64) ∧ t.status = 0x02#8 ∧
  ∀ i, hostReadElement (.node i) t = none ∧ hostReadElement (.ct i) t = none ∧
    hostReadElement (.ibuf i) t = none ∧ hostReadElement (.obuf i) t = none ∧
    hostReadElement (.bbuf i) t = none

/-- The unread input `IBUF[IPOS..ILEN)` (R17). -/
def unreadOf (s : State) : List Byte := s.ibuf.drop s.ipos

/-- Commands executed one after another (R48, R66). -/
def runCommands : List Instr → State → Host.Outcome State Fault Refusal
  | [], s => .next s
  | i :: rest, s =>
    match exec i s with
    | .next t => runCommands rest t
    | .fault r => .fault r
    | .refused r => .refused r

/-- `LOADI` (R67): ICLR, then one IPUSH per byte. -/
def loadInput (bytes : List Byte) : List Instr := .iclr :: bytes.map .ipush

/-- One row of the opcode map of R62: `match`, `mask`, and the command a matching word is. -/
structure OpcodeRow where
  pattern : CmdWord
  mask : CmdWord
  make : CmdWord → Instr

/-- The opcode map of R62, row by row. -/
def opcodeMap : List OpcodeRow :=
  [⟨0x0000#16, 0xFFFF#16, fun _ => .nop⟩,
   ⟨0x0100#16, 0xFFFF#16, fun _ => .iclr⟩,
   ⟨0x0200#16, 0xFF00#16, fun w => .ipush (w.setWidth 8)⟩,
   ⟨0x0300#16, 0xFFFF#16, fun _ => .bclr⟩,
   ⟨0x0400#16, 0xFFFE#16, fun w => .bpush (w.getLsbD 0)⟩,
   ⟨0x0500#16, 0xFFFF#16, fun _ => .eclr⟩,
   ⟨0x0600#16, 0xFFFF#16, fun _ => .srst⟩]
  ++ [⟨0x1000#16, 0xFFFF#16, fun _ => .flatten⟩,
   ⟨0x1100#16, 0xFFFF#16, fun _ => .pack⟩,
   ⟨0x1200#16, 0xFFFF#16, fun _ => .enclen⟩,
   ⟨0x1300#16, 0xFFFF#16, fun _ => .declen⟩,
   ⟨0x2000#16, 0xFFFF#16, fun _ => .fnew⟩,
   ⟨0x2100#16, 0xFF00#16, fun w => .feed (w.setWidth 8)⟩,
   ⟨0x2200#16, 0xFFFF#16, fun _ => .finalize⟩]
  ++ [⟨0x3000#16, 0xFFFF#16, fun _ => .build⟩,
   ⟨0x3100#16, 0xFFFF#16, fun _ => .gentable⟩,
   ⟨0x3200#16, 0xFFFF#16, fun _ => .serialize⟩,
   ⟨0x3300#16, 0xFFFF#16, fun _ => .deserialize⟩,
   ⟨0x4000#16, 0xFFFF#16, fun _ => .encode⟩,
   ⟨0x4100#16, 0xFFFF#16, fun _ => .compress⟩,
   ⟨0x4200#16, 0xFFFF#16, fun _ => .assemble⟩,
   ⟨0x4300#16, 0xFFFF#16, fun _ => .decode⟩,
   ⟨0x4400#16, 0xFFFF#16, fun _ => .decompress⟩]

/-- The bytes of a code in a serialised table: 0x00 for a 0 bit, 0x01 for a 1 bit (R103). -/
def codeBytes (code : Code) : List Byte := code.map fun bit => if bit then 0x01#8 else 0x00#8

/-- A record that another record follows (R103). -/
def innerRecord (e : Byte × Code) : List Byte := [e.1] ++ codeBytes e.2 ++ [0x02#8]

/-- The last record (R103). -/
def lastRecord (e : Byte × Code) : List Byte := [e.1] ++ codeBytes e.2 ++ [0x03#8]

/-- The table the records give, a later record of a byte value replacing an earlier one (R106, R108). -/
def tableOfRecords (es : List (Byte × Code)) : CodeTable :=
  es.foldl (fun T e => fileSet T e.1 (some e.2)) (Vector.replicate 256 none)

/-- The grammar of R110: the source begins with a serialised table of `p` bytes that gives table `T`, or is
the lone byte 0x03. Codes have at most 255 bits. -/
def Parses (src : List Byte) (T : CodeTable) (p : Nat) : Prop :=
  (src = [0x03#8] ∧ T = Vector.replicate 256 none ∧ p = 1) ∨
  ∃ (es : List (Byte × Code)) (e : Byte × Code) (rest : List Byte),
    (∀ e' ∈ es ++ [e], e'.2.length ≤ 255) ∧
    src = es.flatMap innerRecord ++ lastRecord e ++ rest ∧
    p = (es.flatMap innerRecord ++ lastRecord e).length ∧
    T = tableOfRecords (es ++ [e])

/-- The node BUILD puts at an id before any merge: a leaf for a nonzero count, else UNUSED (R90 step 1). -/
def leafAt (f : FreqFile) (i : NodeId) : Node :=
  if h : i.val < 256 then
    if f[i.val] = 0#64 then .unused
    else .leaf (BitVec.ofNat 8 i.val) (BitVec.ofNat 72 f[i.val].toNat)
  else .unused

/-- `sort lst so that before(lst[k], lst[k+1])`: weight descending, among equal weights id ascending (R92).
-/
def SortedNodes (a : Arena) (lst : List NodeId) : Prop :=
  lst.Pairwise fun i j =>
    (nodeGet a j).weight.toNat < (nodeGet a i).weight.toNat ∨
      ((nodeGet a i).weight.toNat = (nodeGet a j).weight.toNat ∧ i.val < j.val)

/-- Step 4 of R90 as a relation: from an arena and a sorted work list, merges until one node remains, the
root. Each merge takes `r`, the last, then `l`, the last of what is left (R93). -/
inductive Merges : Arena → List NodeId → Nat → Arena → NodeId → Prop where
  | done (a : Arena) (root : NodeId) (next : Nat) : Merges a [root] next a root
  | merge (a b : Arena) (front lst : List NodeId) (l r root : NodeId) (next : Nat)
      (inArena : next < 511)
      (sorted : SortedNodes a (front ++ [l, r]))
      (sorted' : SortedNodes
        (nodeSet a ⟨next, inArena⟩
          (.internal ((nodeGet a l).weight + (nodeGet a r).weight) l r)) lst)
      (same : lst.Perm (front ++ [⟨next, inArena⟩]))
      (rest : Merges
        (nodeSet a ⟨next, inArena⟩
          (.internal ((nodeGet a l).weight + (nodeGet a r).weight) l r)) lst (next + 1) b root) :
      Merges a (front ++ [l, r]) next b root

/-- The whole of R90's operation as a relation between FREQ and the arena and root it makes. -/
def BuildRelates (f : FreqFile) (b : Arena) (root : NodeId) : Prop :=
  ∃ (a : Arena) (lst : List NodeId) (next : Nat),
    (((∀ c, fileGet f c = 0#64) ∧ lst = [256] ∧ next = 257 ∧
        ∀ i, nodeGet a i = if i = 256 then .placeholder else .unused) ∨
     ((∃ c, fileGet f c ≠ 0#64) ∧ next = 256 ∧ (∀ i, nodeGet a i = leafAt f i) ∧
        ∀ i, i ∈ lst ↔ nodeGet a i ≠ .unused)) ∧
    SortedNodes a lst ∧ Merges a lst next b root

/-- The path of edge bits from one node down to another, left edge 0, right edge 1 (R101). -/
inductive EdgePath (a : Arena) : NodeId → Code → NodeId → Prop where
  | here (i : NodeId) : EdgePath a i [] i
  | left (i l r j : NodeId) (w : Weight) (path : Code) (h : nodeGet a i = .internal w l r)
      (rest : EdgePath a l path j) : EdgePath a i (false :: path) j
  | right (i l r j : NodeId) (w : Weight) (path : Code) (h : nodeGet a i = .internal w l r)
      (rest : EdgePath a r path j) : EdgePath a i (true :: path) j

/-- Two byte values never share a code, and no code begins another (R112 (b)). -/
def PrefixFree (T : CodeTable) : Prop :=
  ∀ b b' code code', b ≠ b' → fileGet T b = some code → fileGet T b' = some code' →
    ¬ code <+: code'

/-- `match(T, buf)` by a scan of the byte values (R125). -/
def smallestMatch (T : CodeTable) (buf : Code) : Option Byte :=
  ((List.range 256).find? fun n => decide (fileGet T (BitVec.ofNat 8 n) = some buf)).map
    (BitVec.ofNat 8)

/-- `viable(T, buf)` (R125). -/
def someCodeBegins (T : CodeTable) (buf : Code) : Bool :=
  (List.range 256).any fun n =>
    match fileGet T (BitVec.ofNat 8 n) with
    | some code => decide (buf <+: code)
    | none => false

/-- The loop of R125, one turn per unit of the first argument; none when the turns run out. -/
def decodeLoop (T : CodeTable) (L : Nat) (s : List Bit) :
    Nat → List Byte → Code → Nat → Option (Except FaultCause (List Byte))
  | 0, _, _, _ => none
  | turns + 1, out, buf, i =>
    if out.length < L then
      match smallestMatch T buf with
      | some b => decodeLoop T L s turns (out ++ [b]) [] i
      | none =>
        match s[i]? with
        | none => some (.error .decodeError)
        | some bit =>
          if someCodeBegins T (buf ++ [bit]) then decodeLoop T L s turns out (buf ++ [bit]) (i + 1)
          else some (.error .unknownCode)
    else some (.ok out)

/-- The fault codes R150 lets each command raise, in its column "Raised by". -/
def mayRaise : Instr → List (BitVec 8)
  | .nop => []
  | .iclr => []
  | .ipush _ => [7#8]
  | .bclr => []
  | .bpush _ => [7#8]
  | .eclr => []
  | .srst => []
  | .flatten => [7#8]
  | .pack => [7#8]
  | .enclen => [7#8]
  | .declen => [6#8]
  | .fnew => []
  | .feed _ => [6#8, 7#8]
  | .finalize => [6#8]
  | .build => [6#8]
  | .gentable => [6#8]
  | .serialize => [6#8, 7#8]
  | .deserialize => [2#8]
  | .encode => [6#8, 7#8]
  | .compress => [7#8]
  | .assemble => [6#8, 7#8]
  | .decode => [3#8, 4#8, 6#8, 7#8]
  | .decompress => [1#8, 2#8, 3#8, 4#8, 7#8]

/-- The table of R156: the precondition of the command that fails. -/
def preconditionFails (i : Instr) (s : State) : Prop :=
  match i with
  | .declen => (unreadOf s).length < 8
  | .feed _ => s.fcOpen = false
  | .finalize => s.fcOpen = false
  | .build => s.fcOpen = true
  | .gentable => s.treeValid = false
  | .assemble => s.treeValid = false
  | .serialize => s.ctValid = false
  | .encode => s.ctValid = false ∨ ∃ b ∈ unreadOf s, fileGet s.ct b = none
  | .decode => s.ctValid = false
  | .nop => False
  | .iclr => False
  | .ipush _ => False
  | .bclr => False
  | .bpush _ => False
  | .eclr => False
  | .srst => False
  | .flatten => False
  | .pack => False
  | .enclen => False
  | .fnew => False
  | .deserialize => False
  | .compress => False
  | .decompress => False

/-- The table of R158: the result of the command that does not fit, where the tests before it pass (R157).
-/
def capacityFails (i : Instr) (s : State) : Prop :=
  match i with
  | .ipush _ => ¬ fits s.caps.ibuf (s.ibuf.length + 1)
  | .bpush _ => ¬ fits s.caps.bbuf (s.bbuf.length + 1)
  | .feed imm8 => s.fcOpen = true ∧ (fileGet s.freq imm8).toNat = 2 ^ 64 - 1
  | .flatten => ¬ fits s.caps.bbuf (8 * (s.ibuf.length - s.ipos))
  | .pack => ¬ fits s.caps.obuf ((s.bbuf.length + 7) / 8)
  | .enclen => ¬ fits s.caps.obuf 8
  | .serialize => s.ctValid = true ∧ ¬ fits s.caps.obuf (serialize s.ct).length
  | .encode => s.ctValid = true ∧ (∀ b ∈ unreadOf s, fileGet s.ct b ≠ none) ∧
      ¬ fits s.caps.bbuf (encodeBytes s.ct (unreadOf s)).length
  | .compress =>
      let x := unreadOf s
      let tree := buildTree (countBytes x)
      let bits := encodeBytes (tableOf tree.1 tree.2) x
      x.length > 2 ^ 64 - 1 ∨ ¬ fits s.caps.bbuf bits.length ∨
        ¬ fits s.caps.obuf ((bits.length + 7) / 8)
  | .assemble => s.treeValid = true ∧
      ¬ fits s.caps.obuf (8 + (serialize (tableOf s.nodes s.root)).length + s.obuf.length)
  | .decode => s.ctValid = true ∧ ¬ fits s.caps.obuf s.len.toNat
  | .decompress => ∃ T p, 8 ≤ (unreadOf s).length ∧ Parses ((unreadOf s).drop 8) T p ∧
      (¬ fits s.caps.bbuf (8 * ((unreadOf s).length - 8 - p)) ∨
        ¬ fits s.caps.obuf (decodeLength ((unreadOf s).take 8)).toNat)
  | .nop => False
  | .iclr => False
  | .bclr => False
  | .eclr => False
  | .srst => False
  | .declen => False
  | .fnew => False
  | .finalize => False
  | .build => False
  | .gentable => False
  | .deserialize => False

end Sys2Proof.Certificates

open Sys2Proof Sys2Proof.Machine Sys2Proof.Certificates

/-! ### Decoding and encoding -/

/-- Words of 95_test_vectors.md section 2.11 decode as it says. -/
def Obligations.DecodesTheExampleWords : Prop :=
  decode 0x0000#16 = some .nop ∧ decode 0x0001#16 = none ∧
  decode 0x0241#16 = some (.ipush 0x41#8) ∧ decode 0x02FF#16 = some (.ipush 0xFF#8) ∧
  decode 0x0400#16 = some (.bpush false) ∧ decode 0x0401#16 = some (.bpush true) ∧
  decode 0x0402#16 = none ∧ decode 0x04FF#16 = none ∧
  decode 0x0500#16 = some .eclr ∧ decode 0x0600#16 = some .srst ∧
  decode 0x0700#16 = none ∧ decode 0x0F00#16 = none ∧
  decode 0x1000#16 = some .flatten ∧ decode 0x1300#16 = some .declen ∧
  decode 0x1400#16 = none ∧ decode 0x21FF#16 = some (.feed 0xFF#8) ∧
  decode 0x2300#16 = none ∧ decode 0x3300#16 = some .deserialize ∧
  decode 0x3400#16 = none ∧ decode 0x4100#16 = some .compress ∧
  decode 0x4101#16 = none ∧ decode 0x4400#16 = some .decompress ∧
  decode 0x4500#16 = none ∧ decode 0xFFFF#16 = none

/-- R62: "a word `w` is the command exactly when `(w & mask) = match`", for each of the 23 rows. -/
def Obligations.WordIsTheCommandOfItsRow : Prop :=
  ∀ row ∈ opcodeMap, ∀ w, w &&& row.mask = row.pattern ↔ decode w = some (row.make w)

/-- R64: a word that matches no row is illegal and raises IllegalCommand (code 5); 534 words are legal and
65002 are not. -/
def Obligations.WordsOfNoRowAreIllegal : Prop :=
  (∀ w, decode w = none ↔ ∀ row ∈ opcodeMap, w &&& row.mask ≠ row.pattern) ∧
  (∀ w s, decode w = none → s.err = 0#8 → execWord w s = .next (faulted s 5#8 w)) ∧
  ((List.range 65536).filter fun n => (decode (BitVec.ofNat 16 n)).isSome).length = 534 ∧
  ((List.range 65536).filter fun n => (decode (BitVec.ofNat 16 n)).isNone).length = 65002

/-- A word decodes to a command exactly when it is that command's encoding (R60 to R64): every command at
every operand survives the round trip, and no two words are one command. -/
def Obligations.DecodeIsTheInverseOfEncode : Prop :=
  ∀ w i, decode w = some i ↔ encode i = w

/-- What each pseudo-instruction of R67 expands to, as the words written to CMD. R67 gives the case of no
operands for LOADI and LOADB only: that FEEDS then expands to nothing and COUNT to FNEW, FINALIZE is the
model's choice (log entry 24). -/
def Obligations.PseudoInstructionsExpand : Prop :=
  (∀ bytes : List Byte, lineActions (.loadi (bytes.map (·.toNat))) =
    .command 0x0100#16 :: bytes.map fun b => .command (0x02#8 ++ b)) ∧
  (∀ bits : List Bit, lineActions (.loadb (bits.map (·.toNat))) =
    .command 0x0300#16 :: bits.map fun t => .command (if t then 0x0401#16 else 0x0400#16)) ∧
  (∀ bytes : List Byte, lineActions (.feeds (bytes.map (·.toNat))) =
    bytes.map fun b => .command (0x21#8 ++ b)) ∧
  (∀ bytes : List Byte, lineActions (.count (bytes.map (·.toNat))) =
    .command 0x2000#16 :: (bytes.map fun b => .command (0x21#8 ++ b)) ++ [.command 0x2200#16]) ∧
  lineActions .compressc = [.command 0x4100#16, .command 0x4200#16]

/-! ### Steps -/

/-- When the next host action writes a word that decodes, the step is the execution of the command it
decodes to, in the state without that action (R28, R63); `withFetchWord` places such an action. -/
def Obligations.StepRunsTheDecodedCommand : Prop :=
  (∀ s w i rest, s.hostQueue = .command w :: rest → decode w = some i →
    step s = exec i { s with hostQueue := rest }) ∧
  (∀ s n i, decode (BitVec.ofNat 16 n) = some i → step (s.withFetchWord 16 n) = exec i s)

/-- R155, R63 step 2: a word that is no command raises IllegalCommand and does nothing else. -/
def Obligations.StepRaisesIllegalCommand : Prop :=
  ∀ s w rest, s.err = 0#8 → s.hostQueue = .command w :: rest → decode w = none →
    step s = .next { s with hostQueue := rest, err := 5#8, errcmd := w }

/-- R160: while a fault is latched every word but ECLR and SRST is discarded, legal or not, and changes
nothing; ECLR and SRST are executed (SRST with the values R170 states, the capacities unchanged); the host's
LEN write works as usual, and its reads return what they return of the state without the latch, ERR, ERRCMD
and STATUS apart. The host's coming actions stand in `hostQueue` (log entry 1). -/
def Obligations.LatchedBlockDiscardsCommands : Prop :=
  ∀ s, s.err ≠ 0#8 →
    (∀ w rest, s.hostQueue = .command w :: rest → w ≠ 0x0500#16 → w ≠ 0x0600#16 →
      step s = .next { s with hostQueue := rest }) ∧
    (∀ i, i ≠ .eclr → i ≠ .srst → exec i s = .next s) ∧
    (∀ rest, s.hostQueue = .command 0x0500#16 :: rest →
      step s = .next { s with hostQueue := rest, err := 0#8, errcmd := 0#16 }) ∧
    (∀ rest, s.hostQueue = .command 0x0600#16 :: rest →
      ∃ t, step s = .next t ∧ HoldsResetValues t ∧ t.caps = s.caps) ∧
    (∀ v rest, s.hostQueue = .writeReg 0x03 v :: rest →
      step s = .next { s with hostQueue := rest, len := v }) ∧
    (∀ n rest, s.hostQueue = .readReg n :: rest → step s = .next { s with hostQueue := rest }) ∧
    (∀ e rest, s.hostQueue = .readElement e :: rest → step s = .next { s with hostQueue := rest }) ∧
    (∀ e, hostReadElement e s = hostReadElement e { s with err := 0#8, errcmd := 0#16 }) ∧
    (∀ n, 3 ≤ n → hostReadReg n s = hostReadReg n { s with err := 0#8, errcmd := 0#16 })

/-- The host's other actions: a write of LEN, a write of CMD through the register port, writes that are
ignored, reads, a hardware reset (the values R170 states); and the idle block. The model's own: a write to CMD
takes the low 16 bits of its data (log entry 15), the host's coming actions are a list and an empty one is an
idle step (log entry 1), a reset is an action between commands (log entry 13) and leaves the capacities and
the actions after it (log entry 16). -/
def Obligations.HostActionsOtherThanCommandWrites : Prop :=
  (∀ s v rest, s.hostQueue = .writeReg 0x03 v :: rest →
    step s = .next { s with hostQueue := rest, len := v }) ∧
  (∀ s w rest, s.hostQueue = .writeReg 0x09 (BitVec.setWidth 64 w) :: rest →
    step s = step { s with hostQueue := .command w :: rest }) ∧
  (∀ s n v rest, s.hostQueue = .writeReg n v :: rest → n ≠ 0x03 → n ≠ 0x09 →
    step s = .next { s with hostQueue := rest }) ∧
  (∀ s n rest, s.hostQueue = .readReg n :: rest → step s = .next { s with hostQueue := rest }) ∧
  (∀ s e rest, s.hostQueue = .readElement e :: rest → step s = .next { s with hostQueue := rest }) ∧
  (∀ s rest, s.hostQueue = .hardReset :: rest →
    ∃ t, step s = .next t ∧ HoldsResetValues t ∧ t.caps = s.caps ∧ t.hostQueue = rest) ∧
  (∀ s, s.hostQueue = [] → step s = .next s)

/-- Every command in every state, every word and every step has an outcome (derived from R63), and it is a
next state. That it is one also where the word raises a fault of the spec, or is discarded, is the model's
choice (log entry 12), and so is the idle step with no host action waiting (log entry 1). -/
def Obligations.EveryCommandAnswersANextState : Prop :=
  (∀ i s, ∃ t, exec i s = .next t) ∧ (∀ w s, ∃ t, execWord w s = .next t) ∧ ∀ s, ∃ t, step s = .next t

/-! ### Faults -/

/-- R159: a word that raises a fault changes ERR and ERRCMD, and nothing else. -/
def Obligations.FaultChangesOnlyTheLatch : Prop :=
  ∀ w s t, s.err = 0#8 → execWord w s = .next t → t.err ≠ 0#8 → t = faulted s t.err w

/-- R162: ECLR after a fault gives exactly the state before the faulting word, with the latch clear; and
faults do not nest: under the latch a word changes nothing or clears the latch. -/
def Obligations.EclrReturnsToTheStateBeforeTheFault : Prop :=
  (∀ w s t, s.err = 0#8 → s.errcmd = 0#16 → execWord w s = .next t → t.err ≠ 0#8 →
    exec .eclr t = .next s) ∧
  ∀ w s t, s.err ≠ 0#8 → execWord w s = .next t → t = s ∨ t.err = 0#8

/-- R150: a command raises only the faults the column "Raised by" allows it; in particular (R168, which the
spec marks as derived) FNEW, FINALIZE, BUILD, GENTABLE, COMPRESS and ASSEMBLE raise none of the document's
four error kinds. -/
def Obligations.CommandsRaiseOnlyTheirFaults : Prop :=
  (∀ i s t, s.err = 0#8 → exec i s = .next t → t.err = 0#8 ∨ t.err ∈ mayRaise i) ∧
  (∀ i s t, i ∈ [Instr.fnew, .finalize, .build, .gentable, .compress, .assemble] → s.err = 0#8 →
    exec i s = .next t → t.err = 0#8 ∨ t.err = 6#8 ∨ t.err = 7#8)

/-- R156: PreconditionFault is raised exactly in the cases of the rule's list. -/
def Obligations.PreconditionFaultExactlyAsListed : Prop :=
  ∀ i s t, s.err = 0#8 → exec i s = .next t → (t.err = 6#8 ↔ preconditionFails i s)

/-- R158 with the order of R157 (an append faults when it would exceed the capacity): CapacityFault is
raised exactly in the cases of the rule's list, where the tests before it pass. -/
def Obligations.CapacityFaultExactlyAsListed : Prop :=
  ∀ i s t, s.err = 0#8 → exec i s = .next t → (t.err = 7#8 ↔ capacityFails i s)

/-! ### System and buffer commands -/

/-- R140, R141, R143: NOP changes nothing, ICLR empties the input buffer, BCLR the bit buffer. -/
def Obligations.NopIclrBclrResults : Prop :=
  (∀ s : State, exec .nop s = .next s) ∧
  ∀ s : State, s.err = 0#8 →
    exec .iclr s = .next { s with ibuf := [], ipos := 0 } ∧
    exec .bclr s = .next { s with bbuf := [] }

/-- R142: IPUSH appends its byte and does not move IPOS; CapacityFault when the byte does not fit. -/
def Obligations.IpushAppendsItsByte : Prop :=
  ∀ (s : State) (b : Byte), s.err = 0#8 →
    (fits s.caps.ibuf (s.ibuf.length + 1) →
      exec (.ipush b) s = .next { s with ibuf := s.ibuf ++ [b] }) ∧
    (¬ fits s.caps.ibuf (s.ibuf.length + 1) →
      exec (.ipush b) s = .next (faulted s 7#8 (0x02#8 ++ b)))

/-- R144: BPUSH appends its bit; CapacityFault when the bit does not fit. -/
def Obligations.BpushAppendsItsBit : Prop :=
  ∀ (s : State) (t : Bit), s.err = 0#8 →
    (fits s.caps.bbuf (s.bbuf.length + 1) →
      exec (.bpush t) s = .next { s with bbuf := s.bbuf ++ [t] }) ∧
    (¬ fits s.caps.bbuf (s.bbuf.length + 1) →
      exec (.bpush t) s = .next (faulted s 7#8 (if t then 0x0401#16 else 0x0400#16)))

/-- R145: ECLR clears ERR and ERRCMD and changes nothing else, whether or not a fault is latched. -/
def Obligations.EclrClearsTheLatch : Prop :=
  ∀ s : State, exec .eclr s = .next { s with err := 0#8, errcmd := 0#16 }

/-- R146: SRST, in every state, latched or not, gives every register, flag and count its reset value, makes
NODE, CT and the buffers unreadable, and leaves the capacities. -/
def Obligations.SrstTakesTheResetState : Prop :=
  ∀ s : State, ∃ t, exec .srst s = .next t ∧ HoldsResetValues t ∧ t.caps = s.caps

/-! ### BITCONV -/

/-- R70: FLATTEN puts the bits of the unread bytes, most significant first, into BBUF. -/
def Obligations.FlattenExpandsTheUnreadBytes : Prop :=
  ∀ s : State, s.err = 0#8 →
    (fits s.caps.bbuf (8 * (unreadOf s).length) →
      exec .flatten s = .next { s with bbuf := flatten (unreadOf s), ipos := s.ibuf.length }) ∧
    (¬ fits s.caps.bbuf (8 * (unreadOf s).length) →
      exec .flatten s = .next (faulted s 7#8 0x1000#16)) ∧
    (flatten (unreadOf s)).length = 8 * (unreadOf s).length ∧
    ∀ i j, i < (unreadOf s).length → j < 8 →
      (flatten (unreadOf s)).getD (8 * i + j) false = ((unreadOf s).getD i 0#8).getLsbD (7 - j)

/-- R71: PACK makes bytes of 8 bits, most significant first, the last filled with 1-bits. -/
def Obligations.PackGroupsTheBits : Prop :=
  ∀ s : State, s.err = 0#8 →
    (fits s.caps.obuf ((s.bbuf.length + 7) / 8) →
      exec .pack s = .next { s with obuf := pack s.bbuf }) ∧
    (¬ fits s.caps.obuf ((s.bbuf.length + 7) / 8) →
      exec .pack s = .next (faulted s 7#8 0x1100#16)) ∧
    (pack s.bbuf).length = (s.bbuf.length + 7) / 8 ∧
    ∀ i j, i < (pack s.bbuf).length → j < 8 →
      ((pack s.bbuf).getD i 0#8).getLsbD (7 - j) =
        if h : 8 * i + j < s.bbuf.length then s.bbuf[8 * i + j] else true

/-- R72: ENCLEN writes the 8 bytes of LEN, most significant first, which is `pack` of its 64 bits. -/
def Obligations.EnclenWritesTheEightBytes : Prop :=
  ∀ s : State, s.err = 0#8 →
    (fits s.caps.obuf 8 → exec .enclen s = .next { s with obuf := encodeLength s.len }) ∧
    (¬ fits s.caps.obuf 8 → exec .enclen s = .next (faulted s 7#8 0x1200#16)) ∧
    (encodeLength s.len).length = 8 ∧
    (∀ k, k < 8 → ((encodeLength s.len).getD k 0#8).toNat =
      s.len.toNat / 2 ^ (8 * (7 - k)) % 256) ∧
    encodeLength s.len = pack ((List.range 64).map fun j => s.len.getLsbD (63 - j))

/-- R73: DECLEN reads LEN from the first 8 unread bytes and moves IPOS by 8; with fewer it raises
PreconditionFault. -/
def Obligations.DeclenReadsTheEightBytes : Prop :=
  ∀ s : State, s.err = 0#8 →
    (8 ≤ (unreadOf s).length → ∃ v : Len,
      v.toNat = ∑ k ∈ Finset.range 8, ((unreadOf s).getD k 0#8).toNat * 2 ^ (8 * (7 - k)) ∧
      exec .declen s = .next { s with len := v, ipos := s.ipos + 8 }) ∧
    ((unreadOf s).length < 8 → exec .declen s = .next (faulted s 6#8 0x1300#16))

/-- The laws (a) to (e) of the four functions, which the spec derives in R74 from R70 to R73. -/
def Obligations.BitConverterLaws : Prop :=
  (∀ x : List Byte, (flatten x).length = 8 * x.length) ∧
  (∀ x : List Byte, pack (flatten x) = x) ∧
  (∀ s : List Bit, s.length % 8 ≠ 0 →
    (∀ j, j < 8 - s.length % 8 → ((pack s).getLastD 0#8).getLsbD j = true) ∧
    flatten (pack s) = s ++ List.replicate (8 - s.length % 8) true) ∧
  (∀ s : List Bit, s.length % 8 = 0 → flatten (pack s) = s) ∧
  (∀ n : Len, decodeLength (encodeLength n) = n) ∧
  (∀ e : List Byte, e.length = 8 → encodeLength (decodeLength e) = e)

/-! ### The frequency counter -/

/-- R80, R82: FNEW makes a new empty open counter; FINALIZE closes an open one and refuses a closed one; a
closed counter is changed by FNEW and COMPRESS alone, besides the reset of SRST. -/
def Obligations.FnewAndFinalizeResults : Prop :=
  ∀ s : State, s.err = 0#8 →
    (∃ f, (∀ b, fileGet f b = 0#64) ∧ exec .fnew s = .next { s with freq := f, fcOpen := true }) ∧
    (s.fcOpen = true → exec .finalize s = .next { s with fcOpen := false }) ∧
    (s.fcOpen = false → exec .finalize s = .next (faulted s 6#8 0x2200#16)) ∧
    ∀ i t, s.fcOpen = false → exec i s = .next t → i ∉ [Instr.fnew, .compress, .srst] →
      t.freq = s.freq

/-- R81: FEED adds one to the count of its byte alone; it faults on a closed counter and on a full count. -/
def Obligations.FeedCountsItsByte : Prop :=
  ∀ (s : State) (b : Byte), s.err = 0#8 →
    (s.fcOpen = true → (fileGet s.freq b).toNat < 2 ^ 64 - 1 → ∃ f,
      (fileGet f b).toNat = (fileGet s.freq b).toNat + 1 ∧
      (∀ c, c ≠ b → fileGet f c = fileGet s.freq c) ∧
      exec (.feed b) s = .next { s with freq := f }) ∧
    (s.fcOpen = false → exec (.feed b) s = .next (faulted s 6#8 (0x21#8 ++ b))) ∧
    (s.fcOpen = true → (fileGet s.freq b).toNat = 2 ^ 64 - 1 →
      exec (.feed b) s = .next (faulted s 7#8 (0x21#8 ++ b)))

/-- What the spec derives in R83: FNEW, FEED of every byte of `x` in order, FINALIZE leave in FREQ the
number of times each byte occurs in `x`; the counts add up to the length of `x`. -/
def Obligations.FeedingCountsTheInput : Prop :=
  ∀ (s : State) (x : List Byte), s.err = 0#8 → x.length < 2 ^ 64 →
    runCommands (.fnew :: x.map .feed ++ [.finalize]) s =
      .next { s with freq := countBytes x, fcOpen := false } ∧
    (∀ b, (fileGet (countBytes x) b).toNat = x.count b) ∧
    ((countBytes x).toList.map (·.toNat)).sum = x.length

/-! ### The tree builder -/

/-- R90, R93: BUILD leaves in NODE and ROOT what the merge relation makes of FREQ, and sets TREE_VALID; with
the counter open it raises PreconditionFault. -/
def Obligations.BuildMergesTheLightestNodes : Prop :=
  ∀ s : State, s.err = 0#8 →
    (s.fcOpen = false → ∃ a root, BuildRelates s.freq a root ∧ (a, root) = buildTree s.freq ∧
      exec .build s = .next { s with nodes := a, root := root, treeValid := true }) ∧
    (s.fcOpen = true → exec .build s = .next (faulted s 6#8 0x3000#16))

/-- The tree is a function of FREQ alone, as the spec says in R95: whatever arena and root the merge relation
makes of FREQ is what the model's `buildTree` makes, and what BUILD leaves in NODE and ROOT. -/
def Obligations.TreeIsAFunctionOfTheCounts : Prop :=
  (∀ f a root, BuildRelates f a root → (a, root) = buildTree f) ∧
  ∀ (s : State) a root, s.err = 0#8 → s.fcOpen = false → BuildRelates s.freq a root →
    exec .build s = .next { s with nodes := a, root := root, treeValid := true }

/-- R91, and the corner case of R90: with no nonzero count BUILD makes one node, the placeholder at 256;
with exactly one it makes one leaf, which is the root. -/
def Obligations.BuildOfDegenerateCounts : Prop :=
  (∀ f : FreqFile, (∀ b, fileGet f b = 0#64) →
    (buildTree f).2 = 256 ∧
    ∀ i, nodeGet (buildTree f).1 i = if i = 256 then .placeholder else .unused) ∧
  (∀ (f : FreqFile) (b : Byte), fileGet f b ≠ 0#64 → (∀ c, c ≠ b → fileGet f c = 0#64) →
    (buildTree f).2.val = b.toNat ∧
    ∀ i, nodeGet (buildTree f).1 i =
      if i.val = b.toNat then .leaf b ((fileGet f b).setWidth 72) else .unused)

/-- R92: `before` is the stated order, a strict total order on ids, so a sorted list is the only sorted
arrangement of its nodes, and it is the one the model sorts to. -/
def Obligations.BeforeIsAStrictTotalOrder : Prop :=
  ∀ a : Arena,
    (∀ i j, before a i j = true ↔ (nodeGet a j).weight.toNat < (nodeGet a i).weight.toNat ∨
      ((nodeGet a i).weight.toNat = (nodeGet a j).weight.toNat ∧ i.val < j.val)) ∧
    (∀ i, before a i i = false) ∧
    (∀ i j, i ≠ j → before a i j = true ∨ before a j i = true) ∧
    (∀ i j k, before a i j = true → before a j k = true → before a i k = true) ∧
    (∀ lst : List NodeId, lst.Nodup → SortedNodes a (sortNodes a lst) ∧
      ∀ lst', lst'.Perm lst → SortedNodes a lst' → lst' = sortNodes a lst)

/-- The bounds the spec derives in R94: with `m` nonzero counts the internal nodes have ids 256..254+m;
every internal node's weight is the exact sum of its children's, whose ids are smaller; the root's weight is
the sum of all counts, below 2^72, and every other node's is smaller; every code has at most `m - 1` bits;
after counting an input the root's weight is its length. -/
def Obligations.BuildStaysWithinItsBounds : Prop :=
  (∀ f : FreqFile,
    let m := f.toList.countP (fun c => c != 0#64)
    let a := (buildTree f).1
    let root := (buildTree f).2
    1 ≤ m →
      (∀ i, (∃ w l r, nodeGet a i = .internal w l r) ↔ 256 ≤ i.val ∧ i.val < 255 + m) ∧
      (∀ i w l r, nodeGet a i = .internal w l r → l < i ∧ r < i ∧
        w.toNat = (nodeGet a l).weight.toNat + (nodeGet a r).weight.toNat) ∧
      (nodeGet a root).weight.toNat = (f.toList.map (·.toNat)).sum ∧
      (f.toList.map (·.toNat)).sum < 2 ^ 72 ∧
      (∀ i, i ≠ root → (nodeGet a i).weight.toNat < (nodeGet a root).weight.toNat) ∧
      ∀ b code, fileGet (tableOf a root) b = some code → code.length ≤ m - 1) ∧
  (∀ x : List Byte, x.length < 2 ^ 64 →
    (nodeGet (buildTree (countBytes x)).1 (buildTree (countBytes x)).2).weight.toNat = x.length)

/-! ### The code table -/

/-- R100: GENTABLE derives CT from the tree; with no tree it raises PreconditionFault. -/
def Obligations.GentableDerivesTheTable : Prop :=
  ∀ s : State, s.err = 0#8 →
    (s.treeValid = true →
      exec .gentable s = .next { s with ct := tableOf s.nodes s.root, ctValid := true }) ∧
    (s.treeValid = false → exec .gentable s = .next (faulted s 6#8 0x3100#16))

/-- R101: in a tree (the invariant `TreeShape` of R31) the entry of a byte value is the path of edge bits
from the root to its leaf, and absent when it has no leaf. -/
def Obligations.TableHoldsThePathsToTheLeaves : Prop :=
  ∀ a root, TreeShape a root →
    (∀ b code, fileGet (tableOf a root) b = some code ↔
      ∃ i w, EdgePath a root code i ∧ nodeGet a i = .leaf b w) ∧
    ∀ b, fileGet (tableOf a root) b = none ↔ ∀ i w, nodeGet a i ≠ .leaf b w

/-- What the spec derives in R102: a root that is a leaf gives its byte the zero-length code and no other
byte any; a placeholder root gives the empty table, and CT_VALID is still set. -/
def Obligations.DegenerateTreesGiveDegenerateTables : Prop :=
  (∀ a root b w, nodeGet a root = .leaf b w →
    ∀ c, fileGet (tableOf a root) c = if c = b then some [] else none) ∧
  (∀ a root, nodeGet a root = .placeholder → ∀ c, fileGet (tableOf a root) c = none) ∧
  (∀ s : State, s.err = 0#8 → s.treeValid = true → nodeGet s.nodes s.root = .placeholder →
    ∃ T, (∀ c, fileGet T c = none) ∧ exec .gentable s = .next { s with ct := T, ctValid := true })

/-- What the spec derives in R112 (a) to (d): a table made from a built tree has an entry exactly for the
nonzero counts, is prefix-free, has codes of at most 255 bits, a zero-length one only alone, and with two or
more entries is complete: every infinite bit sequence begins with exactly one code. -/
def Obligations.BuiltTablesArePrefixFreeAndComplete : Prop :=
  ∀ f : FreqFile,
    let T := tableOf (buildTree f).1 (buildTree f).2
    (∀ b, (fileGet T b).isSome = true ↔ fileGet f b ≠ 0#64) ∧
    PrefixFree T ∧
    (∀ b code, fileGet T b = some code → code.length ≤ 255 ∧
      (code = [] → ∀ c, c ≠ b → fileGet T c = none)) ∧
    ((∃ b c, b ≠ c ∧ (fileGet T b).isSome = true ∧ (fileGet T c).isSome = true) →
      ∀ bits : Nat → Bit, ∃! b, ∃ code, fileGet T b = some code ∧
        ∀ j (h : j < code.length), code[j] = bits j)

/-- R103, R104, R105: SERIALIZE writes the records of the valid entries in ascending byte value, 0x02
between them and 0x03 last, or the lone 0x03; the length is the sum of CLEN + 2; with no table or no room it
faults. -/
def Obligations.SerializeWritesTheRecords : Prop :=
  ∀ s : State, s.err = 0#8 →
    (s.ctValid = false → exec .serialize s = .next (faulted s 6#8 0x3200#16)) ∧
    (s.ctValid = true → ∃ es : List (Byte × Code), ∃ out : List Byte,
      es.Pairwise (fun e e' => e.1 < e'.1) ∧
      (∀ b code, (b, code) ∈ es ↔ fileGet s.ct b = some code) ∧
      (es = [] → out = [0x03#8]) ∧
      (∀ front e, es = front ++ [e] → out = front.flatMap innerRecord ++ lastRecord e) ∧
      (es ≠ [] → out.length = (es.map fun e => e.2.length + 2).sum) ∧
      (CodesFit s.ct → out.length ≤ 65792) ∧
      out = serialize s.ct ∧
      (fits s.caps.obuf out.length → exec .serialize s = .next { s with obuf := out }) ∧
      (¬ fits s.caps.obuf out.length → exec .serialize s = .next (faulted s 7#8 0x3200#16)))

/-- R106 to R110: DESERIALIZE accepts exactly the grammar, gives the table of the records and consumes the
table's bytes; on any other source it raises MalformedTableError. -/
def Obligations.DeserializeAcceptsExactlyTheGrammar : Prop :=
  ∀ s : State, s.err = 0#8 →
    (∀ T p, Parses (unreadOf s) T p →
      exec .deserialize s = .next { s with ct := T, ctValid := true, ipos := s.ipos + p }) ∧
    ((∀ T p, ¬ Parses (unreadOf s) T p) →
      exec .deserialize s = .next (faulted s 2#8 0x3300#16))

/-- The round trip of the table, which the spec derives in R111. -/
def Obligations.TableRoundTrip : Prop :=
  ∀ (T : CodeTable) (rest : List Byte), CodesFit T →
    ((∃ b, fileGet T b ≠ none) ∨ rest = []) →
    deserialize (serialize T ++ rest) = .ok (T, (serialize T).length)

/-! ### The codec -/

/-- R120: ENCODE concatenates the codes of the unread bytes into BBUF; a missing table or entry raises
PreconditionFault, too many bits CapacityFault. -/
def Obligations.EncodeConcatenatesTheCodes : Prop :=
  ∀ s : State, s.err = 0#8 →
    (∀ codes : List Code, s.ctValid = true →
      (unreadOf s).map (fileGet s.ct) = codes.map some →
      (fits s.caps.bbuf codes.flatten.length →
        exec .encode s = .next { s with bbuf := codes.flatten, ipos := s.ibuf.length }) ∧
      (¬ fits s.caps.bbuf codes.flatten.length →
        exec .encode s = .next (faulted s 7#8 0x4000#16))) ∧
    ((s.ctValid = false ∨ ∃ b ∈ unreadOf s, fileGet s.ct b = none) →
      exec .encode s = .next (faulted s 6#8 0x4000#16))

/-- R121: COMPRESS counts the unread input, builds tree and table, encodes and packs, and leaves all of it
in state with LEN the input's length; what does not fit raises CapacityFault. -/
def Obligations.CompressLeavesPayloadAndTree : Prop :=
  ∀ s : State, s.err = 0#8 →
    let x := unreadOf s
    let tree := buildTree (countBytes x)
    let T := tableOf tree.1 tree.2
    let bits := encodeBytes T x
    (x.length ≤ 2 ^ 64 - 1 → fits s.caps.bbuf bits.length →
      fits s.caps.obuf ((bits.length + 7) / 8) →
      exec .compress s = .next { s with
        freq := countBytes x, fcOpen := false, nodes := tree.1, root := tree.2,
        treeValid := true, ct := T, ctValid := true, bbuf := bits, obuf := pack bits,
        len := BitVec.ofNat 64 x.length, ipos := s.ibuf.length }) ∧
    ((x.length > 2 ^ 64 - 1 ∨ ¬ fits s.caps.bbuf bits.length ∨
      ¬ fits s.caps.obuf ((bits.length + 7) / 8)) →
      exec .compress s = .next (faulted s 7#8 0x4100#16))

/-- R121: COMPRESS has exactly the effect of FNEW, FEED of every unread byte, FINALIZE, BUILD, GENTABLE,
ENCODE and PACK, with LEN written besides. -/
def Obligations.CompressIsItsUnitCommands : Prop :=
  ∀ s t, s.err = 0#8 → exec .compress s = .next t → t.err = 0#8 →
    ∃ u, runCommands (.fnew :: (unreadOf s).map .feed ++
        [.finalize, .build, .gentable, .encode, .pack]) s = .next u ∧
      t = { u with len := BitVec.ofNat 64 (unreadOf s).length }

/-- R122: ASSEMBLE puts length, table of the tree and old OBUF into OBUF, and the table into CT. -/
def Obligations.AssembleConcatenatesTheContainer : Prop :=
  ∀ s : State, s.err = 0#8 →
    (s.treeValid = false → exec .assemble s = .next (faulted s 6#8 0x4200#16)) ∧
    (s.treeValid = true →
      let T := tableOf s.nodes s.root
      let c := encodeLength s.len ++ serialize T ++ s.obuf
      (fits s.caps.obuf c.length →
        exec .assemble s = .next { s with ct := T, ctValid := true, obuf := c }) ∧
      (¬ fits s.caps.obuf c.length → exec .assemble s = .next (faulted s 7#8 0x4200#16)))

/-- What the spec derives in R124: the container COMPRESS and ASSEMBLE make of an input, and its size. -/
def Obligations.ContainersOfTheBlock : Prop :=
  ∀ s t u, s.err = 0#8 → exec .compress s = .next t → t.err = 0#8 →
    exec .assemble t = .next u → u.err = 0#8 →
    let x := unreadOf s
    let T := tableOf (buildTree (countBytes x)).1 (buildTree (countBytes x)).2
    let clen := fun n => ((fileGet T (BitVec.ofNat 8 n)).getD []).length
    let S := if x = [] then 1 else
      ((List.range 256).map fun n => if x.count (BitVec.ofNat 8 n) = 0 then 0 else clen n + 2).sum
    let B := ((List.range 256).map fun n => x.count (BitVec.ofNat 8 n) * clen n).sum
    u.obuf = encodeLength (BitVec.ofNat 64 x.length) ++ serialize T ++ pack (encodeBytes T x) ∧
    u.obuf.length = 8 + S + (B + 7) / 8 ∧
    ((∀ b ∈ x, ∀ c ∈ x, b = c) → B = 0)

/-- R125: DECODE faults without a table, then when LEN bytes do not fit, and otherwise the rule's loop ends
(within LEN emissions and one reading of each bit) and DECODE answers what it does: its bytes, LEN of them,
or its fault. -/
def Obligations.DecodeMapsTheBits : Prop :=
  ∀ s : State, s.err = 0#8 →
    (s.ctValid = false → exec .decode s = .next (faulted s 6#8 0x4300#16)) ∧
    (s.ctValid = true → ¬ fits s.caps.obuf s.len.toNat →
      exec .decode s = .next (faulted s 7#8 0x4300#16)) ∧
    (s.ctValid = true → fits s.caps.obuf s.len.toNat → ∃ result,
      decodeLoop s.ct s.len.toNat s.bbuf (s.len.toNat + s.bbuf.length + 1) [] [] 0 = some result ∧
      (∀ out, result = .ok out →
        out.length = s.len.toNat ∧ exec .decode s = .next { s with obuf := out }) ∧
      (∀ cause, result = .error cause →
        (cause = .decodeError ∧ exec .decode s = .next (faulted s 3#8 0x4300#16)) ∨
        (cause = .unknownCode ∧ exec .decode s = .next (faulted s 4#8 0x4300#16))))

/-- The decoding function of DECODE and DECOMPRESS is R125's loop: match, else exhaustion, else read a bit and test that
some code begins with the buffer. The loop ends within LEN emissions and one reading of each bit. -/
def Obligations.DecodingIsTheLoopOfTheRule : Prop :=
  ∀ (T : CodeTable) (L : Nat) (s : List Bit),
    decodeLoop T L s (L + s.length + 1) [] [] 0 = some (decodeBits T L s)

/-- What the spec derives in R126: with a zero-length code in the table, decoding emits the smallest byte
value that has it, LEN times, and reads no bit. -/
def Obligations.ZeroLengthCodeReadsNoBit : Prop :=
  ∀ (T : CodeTable) (b : Byte), fileGet T b = some [] →
    (∀ c, c < b → fileGet T c ≠ some []) →
    ∀ L s, decodeBits T L s = .ok (List.replicate L b)

/-- R127: on tables that are not prefix-free: of equal codes the smallest byte value is emitted, a code that
another code properly begins is never matched, and with the empty table and LEN > 0 decoding fails. -/
def Obligations.DecodingForeignTables : Prop :=
  (∀ (T : CodeTable) b c code, c < b → fileGet T b = some code → fileGet T c = some code →
    ∀ L s out, decodeBits T L s = .ok out → b ∉ out) ∧
  (∀ (T : CodeTable) b c code code', fileGet T b = some code → fileGet T c = some code' →
    code' <+: code → code' ≠ code → ∀ L s out, decodeBits T L s = .ok out → b ∉ out) ∧
  (∀ (T : CodeTable) L s, (∀ b, fileGet T b = none) → 0 < L →
    decodeBits T L s = .error (if s = [] then .decodeError else .unknownCode))

/-- The decoding step of the round trip: with a prefix-free table, decoding the codes of `x`, whatever bits
follow, gives `x`. -/
def Obligations.DecodingInvertsEncoding : Prop :=
  ∀ (T : CodeTable) (x : List Byte) (pad : List Bit), PrefixFree T →
    (∀ b ∈ x, fileGet T b ≠ none) →
    decodeBits T x.length (encodeBytes T x ++ pad) = .ok x

/-- R128: DECOMPRESS, its five steps and its faults in their order. -/
def Obligations.DecompressFollowsTheFiveSteps : Prop :=
  ∀ s : State, s.err = 0#8 →
    let c := unreadOf s
    let L := decodeLength (c.take 8)
    (c.length < 8 → exec .decompress s = .next (faulted s 1#8 0x4400#16)) ∧
    (8 ≤ c.length → (∀ T p, ¬ Parses (c.drop 8) T p) →
      exec .decompress s = .next (faulted s 2#8 0x4400#16)) ∧
    (8 ≤ c.length → ∀ T p, Parses (c.drop 8) T p →
      let bits := flatten (c.drop (8 + p))
      ((¬ fits s.caps.bbuf (8 * (c.length - 8 - p)) ∨ ¬ fits s.caps.obuf L.toNat) →
        exec .decompress s = .next (faulted s 7#8 0x4400#16)) ∧
      (fits s.caps.bbuf (8 * (c.length - 8 - p)) → fits s.caps.obuf L.toNat →
        (decodeBits T L.toNat bits = .error .decodeError →
          exec .decompress s = .next (faulted s 3#8 0x4400#16)) ∧
        (decodeBits T L.toNat bits = .error .unknownCode →
          exec .decompress s = .next (faulted s 4#8 0x4400#16)) ∧
        (∀ out, decodeBits T L.toNat bits = .ok out →
          exec .decompress s = .next { s with
            len := L, ct := T, ctValid := true, bbuf := bits, obuf := out,
            ipos := s.ibuf.length })))

/-- What the spec derives in R179: DECLEN, DESERIALIZE, FLATTEN, DECODE one after another do by hand what a
DECOMPRESS without fault does. -/
def Obligations.DecompressIsItsUnitCommands : Prop :=
  ∀ s t, s.err = 0#8 → exec .decompress s = .next t → t.err = 0#8 →
    runCommands [.declen, .deserialize, .flatten, .decode] s = .next t

/-- What the spec derives in R129: for every input, the container made by COMPRESS and ASSEMBLE is
decompressed to the input, of exactly its length, with no fault but a lack of room. -/
def Obligations.ContainerRoundTrip : Prop :=
  ∀ (x : List Byte) (s t u : State), x.length < 2 ^ 64 → s.err = 0#8 →
    runCommands (loadInput x ++ [.compress]) s = .next t → t.err = 0#8 →
    exec .assemble t = .next u → u.err = 0#8 →
    ∀ v z : State, v.err = 0#8 →
      runCommands (loadInput u.obuf) v = .next { v with ibuf := u.obuf, ipos := 0 } →
      exec .decompress { v with ibuf := u.obuf, ipos := 0 } = .next z → z.err ≠ 7#8 →
      z.err = 0#8 ∧ z.obuf = x

/-- R130: DECODE and DECOMPRESS that end without fault leave exactly LEN bytes in OBUF. -/
def Obligations.DecodingNeverReturnsAShortResult : Prop :=
  ∀ i s t, i = .decode ∨ i = .decompress → s.err = 0#8 → exec i s = .next t → t.err = 0#8 →
    t.obuf.length = t.len.toNat

/-! ### Whole-machine rules -/

/-- R16 to R19: the commands that write IBUF, IPOS, OBUF and BBUF are the ones the rules list (and SRST,
which resets them); every other command leaves the buffer, every element of it, unchanged. -/
def Obligations.OnlyListedCommandsWriteTheBuffers : Prop :=
  ∀ i s t, exec i s = .next t →
    ((∀ b, i ≠ .ipush b) → i ∉ [Instr.iclr, .srst] → t.ibuf = s.ibuf) ∧
    (i ∉ [Instr.iclr, .srst, .declen, .deserialize, .flatten, .encode, .compress, .decompress] →
      t.ipos = s.ipos) ∧
    (i ∉ [Instr.pack, .enclen, .serialize, .compress, .assemble, .decode, .decompress, .srst] →
      t.obuf = s.obuf) ∧
    ((∀ b, i ≠ .bpush b) → i ∉ [Instr.flatten, .encode, .compress, .decompress, .bclr, .srst] →
      t.bbuf = s.bbuf)

/-- R12, R20 to R23, R26: the commands that write LEN, FREQ, NODE, ROOT, CT and the latch are the ones the
rules list (and SRST); no command changes the capacities or the host's coming actions. -/
def Obligations.OnlyListedCommandsWriteTheRegisters : Prop :=
  ∀ i s t, exec i s = .next t →
    (i ∉ [Instr.declen, .decompress, .compress, .srst] → t.len = s.len) ∧
    ((∀ b, i ≠ .feed b) → i ∉ [Instr.fnew, .compress, .srst] → t.freq = s.freq) ∧
    (i ∉ [Instr.build, .compress, .srst] → t.nodes = s.nodes ∧ t.root = s.root) ∧
    (i ∉ [Instr.gentable, .deserialize, .compress, .assemble, .decompress, .srst] → t.ct = s.ct) ∧
    (i ∉ [Instr.eclr, .srst] → s.err ≠ 0#8 → t.err = s.err ∧ t.errcmd = s.errcmd) ∧
    t.caps = s.caps ∧ t.hostQueue = s.hostQueue

/-- R13 to R15: what sets and clears the three flags. -/
def Obligations.OnlyListedCommandsWriteTheFlags : Prop :=
  ∀ i s t, exec i s = .next t →
    (t.fcOpen = true → s.fcOpen = false → i ∈ [Instr.fnew, .srst]) ∧
    (t.fcOpen = false → s.fcOpen = true → i ∈ [Instr.finalize, .compress]) ∧
    (t.treeValid = true → s.treeValid = false → i ∈ [Instr.build, .compress]) ∧
    (t.treeValid = false → s.treeValid = true → i = .srst) ∧
    (t.ctValid = true → s.ctValid = false →
      i ∈ [Instr.gentable, .compress, .assemble, .deserialize, .decompress]) ∧
    (t.ctValid = false → s.ctValid = true → i = .srst)

/-- What the spec derives in R31 ("State invariants a model may rely on"): every step, from every state that
meets the invariants, leads to a state that meets them. -/
def Obligations.StepKeepsTheInvariants : Prop :=
  ∀ s t, s.Inv → step s = .next t → t.Inv

/-- The reset state, of a block of any capacities, holds the values R170 states and meets the invariants,
which the spec derives in R31. That a State has capacities and host actions, and which `State.reset` has, is
the model's choice (log entries 1 and 2). -/
def Obligations.ResetMeetsTheInvariants : Prop :=
  (HoldsResetValues State.reset ∧ State.reset.Inv) ∧
  ∀ caps queue, HoldsResetValues (State.resetWith caps queue) ∧ (State.resetWith caps queue).Inv

/-- R25, R27: what the host reads, and which reads are refused. -/
def Obligations.HostReadsOfRegistersAndElements : Prop :=
  ∀ s : State,
    (∃ status : BitVec 8, hostReadReg 0x00 s = some status.toNat ∧
      (status.getLsbD 0 = true ↔ s.err ≠ 0#8) ∧ status.getLsbD 1 = s.fcOpen ∧
      status.getLsbD 2 = s.treeValid ∧ status.getLsbD 3 = s.ctValid ∧
      ∀ k, 4 ≤ k → status.getLsbD k = false) ∧
    hostReadReg 0x01 s = some s.err.toNat ∧ hostReadReg 0x02 s = some s.errcmd.toNat ∧
    hostReadReg 0x03 s = some s.len.toNat ∧ hostReadReg 0x04 s = some s.ibuf.length ∧
    hostReadReg 0x05 s = some s.ipos ∧ hostReadReg 0x06 s = some s.obuf.length ∧
    hostReadReg 0x07 s = some s.bbuf.length ∧
    (s.treeValid = true → hostReadReg 0x08 s = some s.root.val) ∧
    (s.treeValid = false → hostReadReg 0x08 s = none) ∧
    (∀ n, 9 ≤ n → hostReadReg n s = none) ∧
    (∀ i, s.ibuf.length ≤ i → hostReadElement (.ibuf i) s = none) ∧
    (∀ i (h : i < s.ibuf.length), hostReadElement (.ibuf i) s = some (.byte s.ibuf[i])) ∧
    (∀ i, s.obuf.length ≤ i → hostReadElement (.obuf i) s = none) ∧
    (∀ i (h : i < s.obuf.length), hostReadElement (.obuf i) s = some (.byte s.obuf[i])) ∧
    (∀ i, s.bbuf.length ≤ i → hostReadElement (.bbuf i) s = none) ∧
    (∀ i (h : i < s.bbuf.length), hostReadElement (.bbuf i) s = some (.bit s.bbuf[i])) ∧
    (∀ b : Byte, hostReadElement (.freq b.toNat) s = some (.count (fileGet s.freq b))) ∧
    (∀ i, 256 ≤ i → hostReadElement (.freq i) s = none ∧ hostReadElement (.ct i) s = none) ∧
    (∀ i, 511 ≤ i ∨ s.treeValid = false → hostReadElement (.node i) s = none) ∧
    (∀ i : NodeId, s.treeValid = true →
      (nodeGet s.nodes i = .unused →
        hostReadElement (.node i.val) s = some (.node 0#2 0#8 0#72 0#9 0#9)) ∧
      (∀ v w, nodeGet s.nodes i = .leaf v w →
        hostReadElement (.node i.val) s = some (.node 1#2 v w 0#9 0#9)) ∧
      (∀ w l r, nodeGet s.nodes i = .internal w l r → ∃ left right : BitVec 9,
        left.toNat = l.val ∧ right.toNat = r.val ∧
        hostReadElement (.node i.val) s = some (.node 2#2 0#8 w left right)) ∧
      (nodeGet s.nodes i = .placeholder →
        hostReadElement (.node i.val) s = some (.node 3#2 0#8 0#72 0#9 0#9))) ∧
    (∀ i, s.ctValid = false → hostReadElement (.ct i) s = none) ∧
    (∀ b : Byte, s.ctValid = true →
      (fileGet s.ct b = none → hostReadElement (.ct b.toNat) s = some (.entry false 0#8 0#255)) ∧
      ∀ code, fileGet s.ct b = some code → code.length ≤ 255 → ∃ clen field,
        hostReadElement (.ct b.toNat) s = some (.entry true clen field) ∧
        clen.toNat = code.length ∧ ∀ j, field.getLsbD j = code.getD j false)
end

