-- ==== Sys2Proof/Tests/Slice0.lean ====
section
/-! SUPPORT. The model's own tests: words decoded as spec/30_encoding.md writes them, ill-formed assembler lines,
single steps against the vectors of spec/95_test_vectors.md (V numbers are its rows), and, for every statement
with hypotheses, concrete states that meet them (`witness_...`). Expected results are the spec's. -/

namespace Sys2Proof.Tests

-- One theorem is checked at a time: many kernel evaluations at once would need a thread each.
set_option Elab.async false

open Sys2Proof Sys2Proof.Machine Sys2Proof.Certificates

/-! ### Builders -/

/-- The reset state with these bytes in IBUF. -/
def withInput (bytes : List Byte) : State := { State.reset with ibuf := bytes }

/-- The reset state with these bits in BBUF. -/
def withBits (bits : List Bit) : State := { State.reset with bbuf := bits }

/-- The reset state of a block with these capacities (IBUF, OBUF, BBUF). -/
def withCaps (i o b : BitVec 64) : State := State.resetWith ⟨.limit i, .limit o, .limit b⟩ []

/-- The reset state with a table in CT. -/
def withTable (es : List (Byte × Code)) : State :=
  { State.reset with ct := tableOfRecords es, ctValid := true }

/-- The reset state with these host actions waiting. -/
def withQueue (q : List HostAction) : State := { State.reset with hostQueue := q }

/-- The table of Scenario C. -/
def tableC : List (Byte × Code) :=
  [(0x00#8, [true, true]), (0x01#8, [true, false]), (0x02#8, [false])]

/-- The input of Scenario C. -/
def inputC : List Byte := [0x00#8, 0x01#8, 0x01#8, 0x02#8, 0x02#8, 0x02#8]

/-- The serialised table of Scenario C. -/
def recordsC : List Byte :=
  [0x00#8, 0x01#8, 0x01#8, 0x02#8, 0x01#8, 0x01#8, 0x00#8, 0x02#8, 0x02#8, 0x00#8, 0x03#8]

/-- A length below 256 as a container's first 8 bytes. -/
def length8 (n : Byte) : List Byte := List.replicate 7 0x00#8 ++ [n]

/-- The container of Scenario C. -/
def containerC : List Byte := length8 0x06#8 ++ recordsC ++ [0xE8#8, 0x7F#8]

/-- The next state of an outcome, if it is one. -/
def next? (o : Host.Outcome State Fault Refusal) : Option State :=
  match o with
  | .next t => some t
  | .fault _ => none
  | .refused _ => none

/-- The next state of an outcome, the reset state where there is none. -/
def after (o : Host.Outcome State Fault Refusal) : State := (next? o).getD State.reset

/-- An outcome that is a next state is that of its `after`. -/
theorem eq_next_after {o : Host.Outcome State Fault Refusal} (h : (next? o).isSome = true) :
    o = .next (after o) := by
  cases o with
  | next t => rfl
  | fault r => cases r
  | refused r => simp [next?] at h

/-! ### Decoding: one word per command, written from R60 to R62 -/

theorem test_decode_nop : decode 0b0000000000000000#16 = some .nop := by decide
theorem test_decode_iclr : decode 0b0000000100000000#16 = some .iclr := by decide
theorem test_decode_ipush : decode 0b0000001001000001#16 = some (.ipush 0x41#8) := by decide
theorem test_decode_bclr : decode 0b0000001100000000#16 = some .bclr := by decide
theorem test_decode_bpush : decode 0b0000010000000001#16 = some (.bpush true) := by decide
theorem test_decode_eclr : decode 0b0000010100000000#16 = some .eclr := by decide
theorem test_decode_srst : decode 0b0000011000000000#16 = some .srst := by decide
theorem test_decode_flatten : decode 0b0001000000000000#16 = some .flatten := by decide
theorem test_decode_pack : decode 0b0001000100000000#16 = some .pack := by decide
theorem test_decode_enclen : decode 0b0001001000000000#16 = some .enclen := by decide
theorem test_decode_declen : decode 0b0001001100000000#16 = some .declen := by decide
theorem test_decode_fnew : decode 0b0010000000000000#16 = some .fnew := by decide
theorem test_decode_feed : decode 0b0010000111111110#16 = some (.feed 0xFE#8) := by decide
theorem test_decode_finalize : decode 0b0010001000000000#16 = some .finalize := by decide
theorem test_decode_build : decode 0b0011000000000000#16 = some .build := by decide
theorem test_decode_gentable : decode 0b0011000100000000#16 = some .gentable := by decide
theorem test_decode_serialize : decode 0b0011001000000000#16 = some .serialize := by decide
theorem test_decode_deserialize : decode 0b0011001100000000#16 = some .deserialize := by decide
theorem test_decode_encode : decode 0b0100000000000000#16 = some .encode := by decide
theorem test_decode_compress : decode 0b0100000100000000#16 = some .compress := by decide
theorem test_decode_assemble : decode 0b0100001000000000#16 = some .assemble := by decide
theorem test_decode_decode : decode 0b0100001100000000#16 = some .decode := by decide
theorem test_decode_decompress : decode 0b0100010000000000#16 = some .decompress := by decide

/-- 2.11: words that are no command. -/
theorem test_decode_illegal :
    decode 0x0001#16 = none ∧ decode 0x0402#16 = none ∧ decode 0x0700#16 = none ∧
      decode 0x1400#16 = none ∧ decode 0x4101#16 = none ∧ decode 0xFFFF#16 = none := by decide

theorem test_decodeTableWord :
    decodeTableWord 16 0x21FF = some (.feed 0xFF#8) ∧ decodeTableWord 16 0x04FF = none := by decide

/-! ### Well-formedness: an ill-formed line for each check -/

theorem test_illformed_plain : AsmLine.wellFormed (.plain (.ipush 0#8)) = false := by decide
theorem test_illformed_ipush : AsmLine.wellFormed (.ipush 256) = false := by decide
theorem test_illformed_feed : AsmLine.wellFormed (.feed 256) = false := by decide
theorem test_illformed_bpush : AsmLine.wellFormed (.bpush 2) = false := by decide
theorem test_illformed_setlen : AsmLine.wellFormed (.setlen (2 ^ 64)) = false := by decide
theorem test_illformed_loadi : AsmLine.wellFormed (.loadi [1, 300]) = false := by decide
theorem test_illformed_loadb : AsmLine.wellFormed (.loadb [1, 0, 2]) = false := by decide
theorem test_illformed_feeds : AsmLine.wellFormed (.feeds [256]) = false := by decide
theorem test_illformed_count : AsmLine.wellFormed (.count [256]) = false := by decide
theorem test_wellformed_lines :
    (AsmLine.wellFormed (.ipush 255) && AsmLine.wellFormed (.bpush 1) &&
      AsmLine.wellFormed (.setlen (2 ^ 64 - 1)) && AsmLine.wellFormed (.plain .compress)) = true := by
  decide
theorem test_assemble_illformed : assembleProgram [.plain .nop, .bpush 2] = none := by decide

/-- R66: `IPUSH 0x41` assembles to 0x0241, `FEED 0xFF` to 0x21FF, `BPUSH 1` to 0x0401, `COMPRESS` to
0x4100. -/
theorem test_assemble_examples :
    assembleProgram [.ipush 0x41, .feed 0xFF, .bpush 1, .plain .compress] =
      some [.command 0x0241#16, .command 0x21FF#16, .command 0x0401#16, .command 0x4100#16] := by
  decide

/-! ### System commands (2.10) -/

/-- V2. -/
theorem test_ipush : (next? (exec (.ipush 0x41#8) State.reset)).map (fun t => (t.ibuf, t.ipos)) =
    some ([0x41#8], 0) := by decide +kernel
/-- V7: the third byte of three into IBUF_CAP = 2. -/
theorem test_ipush_full :
    (next? (exec (.ipush 0x03#8) { withCaps 2 64 64 with ibuf := [1, 2] })).map
      (fun t => (t.err, t.errcmd, t.ibuf)) = some (7#8, 0x0203#16, [1, 2]) := by decide +kernel
/-- V3. -/
theorem test_iclr : (next? (exec .iclr (withInput [1, 2]))).map (fun t => (t.ilen, t.ipos)) =
    some (0, 0) := by decide +kernel
/-- V5. -/
theorem test_bpush : (next? (exec (.bpush false) (withBits [true]))).map (·.bbuf) =
    some [true, false] := by decide +kernel
/-- V6. -/
theorem test_bclr : (next? (exec .bclr (withBits [true]))).map (·.blen) = some 0 := by
  decide +kernel
/-- V8. -/
theorem test_eclr :
    (next? (exec .eclr { State.reset with err := 1#8, errcmd := 0x4400#16 })).map
      (fun t => (t.err, t.errcmd, t.status)) = some (0#8, 0#16, 0x02#8) := by decide +kernel
/-- V11: SRST runs under the latch. -/
theorem test_srst :
    (next? (exec .srst { withInput [1] with err := 5#8, errcmd := 0x0700#16, treeValid := true })).map
      (fun t => (t.err, t.ilen, t.status)) = some (0#8, 0, 0x02#8) := by decide +kernel
/-- V1. -/
theorem test_nop : (next? (exec .nop (withInput [1]))).map (fun t => (t.ibuf, t.err)) =
    some ([1], 0#8) := by decide +kernel

/-! ### BITCONV (2.1) -/

/-- V1. -/
theorem test_flatten : (next? (exec .flatten (withInput [0xA5]))).map (fun t => (t.bbuf, t.ipos)) =
    some ([true, false, true, false, false, true, false, true], 1) := by decide +kernel
/-- V15. -/
theorem test_flatten_full :
    (next? (exec .flatten { withCaps 64 64 8 with ibuf := [1, 2] })).map
      (fun t => (t.err, t.errcmd, t.blen, t.ipos)) = some (7#8, 0x1000#16, 0, 0) := by decide +kernel
/-- V4. -/
theorem test_pack : (next? (exec .pack (withBits (List.replicate 9 false)))).map (·.obuf) =
    some [0x00#8, 0x7F#8] := by decide +kernel
/-- V6: no pad byte for no bits. -/
theorem test_pack_empty : (next? (exec .pack { State.reset with obuf := [1] })).map (·.obuf) =
    some [] := by decide +kernel
/-- V8. -/
theorem test_enclen :
    (next? (exec .enclen { State.reset with len := 0x0102030405060708#64 })).map (·.obuf) =
      some [1, 2, 3, 4, 5, 6, 7, 8] := by decide +kernel
/-- V13. -/
theorem test_declen :
    (next? (exec .declen (withInput [0x80, 0, 0, 0, 0, 0, 0, 0, 0xAA]))).map
      (fun t => (t.len, t.ipos)) = some (0x8000000000000000#64, 8) := by decide +kernel
/-- V14: PreconditionFault, not TruncatedLengthError. -/
theorem test_declen_short :
    (next? (exec .declen (withInput [1, 2, 3]))).map (fun t => (t.err, t.errcmd, t.ipos)) =
      some (6#8, 0x1300#16, 0) := by decide +kernel

/-! ### Frequency counter (2.2) -/

/-- V8. -/
theorem test_feed :
    (next? (exec (.feed 0xFF#8) State.reset)).map
      (fun t => (fileGet t.freq 0xFF#8, fileGet t.freq 0xFE#8)) = some (1#64, 0#64) := by
  decide +kernel
/-- V7: a full count faults and keeps its value. -/
theorem test_feed_full :
    (next? (exec (.feed 0x07#8)
      { State.reset with freq := fileSet zeroFreq 7 (BitVec.allOnes 64) })).map
      (fun t => (t.err, t.errcmd, fileGet t.freq 7)) =
      some (7#8, 0x2107#16, BitVec.allOnes 64) := by decide +kernel
/-- V5. -/
theorem test_fnew :
    (next? (exec .fnew
      { State.reset with fcOpen := false, freq := fileSet zeroFreq 1 2 })).map
      (fun t => (t.fcOpen, fileGet t.freq 1)) = some (true, 0#64) := by decide +kernel
/-- V6, and V4 on a closed counter. -/
theorem test_finalize :
    (next? (exec .finalize State.reset)).map (fun t => (t.fcOpen, t.err)) = some (false, 0#8) ∧
    (next? (exec .finalize { State.reset with fcOpen := false })).map
      (fun t => (t.err, t.errcmd)) = some (6#8, 0x2200#16) := by decide +kernel

/-! ### Tree and table (2.3 to 2.6) -/

/-- The finalized counts V9 of 2.3, "abracadabra". -/
def countsV9 : State :=
  { State.reset with
    fcOpen := false
    freq := countBytes [0x61, 0x62, 0x72, 0x61, 0x63, 0x61, 0x64, 0x61, 0x62, 0x72, 0x61] }

/-- V9: the merges, ties included. -/
theorem test_build :
    (next? (exec .build countsV9)).map (fun t => (t.root, nodeGet t.nodes 256, nodeGet t.nodes 257,
      nodeGet t.nodes 258, nodeGet t.nodes 259)) =
    some (259, .internal 2 99 100, .internal 4 114 256, .internal 6 257 98, .internal 11 258 97) := by
  decide +kernel
/-- V1: the placeholder. -/
theorem test_build_placeholder :
    (next? (exec .build { State.reset with fcOpen := false })).map
      (fun t => (t.root, nodeGet t.nodes 256, nodeGet t.nodes 0)) =
      some (256, .placeholder, .unused) := by decide +kernel
/-- 2.4 V9. -/
theorem test_gentable :
    (next? (exec .gentable (after (exec .build countsV9)))).map (fun t => entries t.ct) =
    some [(0x61, [true]), (0x62, [false, true]), (0x63, [false, false, true, false]),
      (0x64, [false, false, true, true]), (0x72, [false, false, false])] := by decide +kernel
/-- 2.5 V3. -/
theorem test_serialize :
    (next? (exec .serialize (withTable tableC))).map (·.obuf) = some recordsC := by decide +kernel
/-- 2.5 V1: the empty table. -/
theorem test_serialize_empty :
    (next? (exec .serialize (withTable []))).map (·.obuf) = some [0x03#8] := by decide +kernel
/-- 2.6 V3. -/
theorem test_deserialize :
    (next? (exec .deserialize (withInput (recordsC ++ [0xE8, 0x7F])))).map
      (fun t => (entries t.ct, t.ipos, t.ctValid)) = some (tableC, 11, true) := by decide +kernel
/-- 2.6 V10: the source ends after a separator. -/
theorem test_deserialize_short :
    (next? (exec .deserialize (withInput [0x41, 0x00, 0x02]))).map
      (fun t => (t.err, t.errcmd, t.ipos, t.ctValid)) = some (2#8, 0x3300#16, 0, false) := by
  decide +kernel

/-! ### Codec (2.7 to 2.9) -/

/-- 2.7 V1. -/
theorem test_encode :
    (next? (exec .encode { withTable tableC with ibuf := inputC })).map (fun t => (t.bbuf, t.ipos)) =
    some ([true, true, true, false, true, false, false, false, false], 6) := by decide +kernel
/-- 2.7 V6. -/
theorem test_encode_missing :
    (next? (exec .encode { withTable [(1, [false]), (2, [true])] with ibuf := [3] })).map
      (fun t => (t.err, t.errcmd, t.ipos)) = some (6#8, 0x4000#16, 0) := by decide +kernel
/-- P1 after COMPRESS. -/
theorem test_compress :
    (next? (exec .compress (withInput inputC))).map
      (fun t => (t.obuf, t.len, t.root, t.ipos, t.status)) =
      some ([0xE8#8, 0x7F#8], 6#64, 257, 6, 0x0C#8) := by decide +kernel
/-- 2.8 V12: BBUF_CAP = 8. -/
theorem test_compress_full :
    (next? (exec .compress { withCaps 64 64 8 with ibuf := inputC })).map
      (fun t => (t.err, t.errcmd, t.ipos, t.status)) = some (7#8, 0x4100#16, 0, 0x03#8) := by
  decide +kernel
/-- P1 after ASSEMBLE. -/
theorem test_assemble :
    (next? (exec .assemble (after (exec .compress (withInput inputC))))).map (·.obuf) =
      some containerC := by decide +kernel
/-- V26. -/
theorem test_decode :
    (next? (exec .decode { withTable tableC with
      len := 6#64, bbuf := [true, true, true, false, true, false, false, false, false] })).map
      (·.obuf) = some inputC := by decide +kernel
/-- 2.9 V23: UnknownCodeError, the longer nested code never matched. -/
theorem test_decode_unknown :
    (next? (exec .decode { withTable [(0x41, [false]), (0x42, [false, true])] with
      len := 2#64, bbuf := [false, true, false] })).map (fun t => (t.err, t.errcmd, t.obuf)) =
      some (4#8, 0x4300#16, []) := by decide +kernel
/-- P2. -/
theorem test_decompress :
    (next? (exec .decompress (withInput containerC))).map
      (fun t => (t.obuf, t.len, t.blen, t.ipos, t.status)) =
      some (inputC, 6#64, 16, 21, 0x0A#8) := by decide +kernel
/-- 2.9 V9: one payload byte cut, DecodeError and nothing changed. -/
theorem test_decompress_short :
    (next? (exec .decompress (withInput (length8 6 ++ recordsC ++ [0xE8])))).map
      (fun t => (t.err, t.errcmd, t.len, t.obuf, t.ipos)) =
      some (3#8, 0x4400#16, 0#64, [], 0) := by decide +kernel

/-! ### Host port (1.5, 2.12) -/

/-- 2.12 V7. -/
theorem test_host_reads :
    let s := { withInput [0, 0, 0, 4] with err := 1#8, errcmd := 0x4400#16 }
    hostReadReg 0x00 s = some 0x03 ∧ hostReadElement (.obuf 0) s = none ∧
      hostReadElement (.ibuf 3) s = some (.byte 4#8) ∧ hostReadElement (.node 0) s = none := by
  decide +kernel
/-- 2.12 V2: an illegal word under the latch keeps the first fault. -/
theorem test_step_latched :
    (next? (step { withQueue [.command 0x0700#16] with err := 1#8, errcmd := 0x4400#16 })).map
      (fun t => (t.err, t.errcmd)) = some (1#8, 0x4400#16) := by decide +kernel
/-- P9: the word 0x0402. -/
theorem test_step_illegal :
    (next? (step (State.reset.withFetchWord 16 0x0402))).map
      (fun t => (t.err, t.errcmd, t.status)) = some (5#8, 0x0402#16, 0x03#8) := by decide +kernel

/-! ### Witnesses: states that meet the hypotheses of the statements -/

theorem witness_row_of_ipush :
    (⟨0x0200#16, 0xFF00#16, fun w => .ipush (w.setWidth 8)⟩ : OpcodeRow) ∈ opcodeMap ∧
      0x02FF#16 &&& 0xFF00#16 = 0x0200#16 ∧ opcodeMap.length = 23 := by
  refine ⟨by simp [opcodeMap], by decide, by decide⟩

theorem witness_WordsOfNoRowAreIllegal : decode 0x0700#16 = none ∧ State.reset.err = 0#8 := by
  decide

theorem witness_StepRunsTheDecodedCommand :
    (withQueue [.command 0x0241#16]).hostQueue = .command 0x0241#16 :: [] ∧
      decode 0x0241#16 = some (.ipush 0x41#8) ∧
      decode (BitVec.ofNat 16 0x4400) = some .decompress := by decide

theorem witness_StepRaisesIllegalCommand :
    (withQueue [.command 0x0402#16]).err = 0#8 ∧
      (withQueue [.command 0x0402#16]).hostQueue = .command 0x0402#16 :: [] ∧
      decode 0x0402#16 = none := by decide

/-- A state with a latched fault and one host action waiting. -/
def latchedWith (a : HostAction) : State := { withQueue [a] with err := 1#8, errcmd := 0x4400#16 }

theorem witness_LatchedBlock_word :
    (latchedWith (.command 0x0255#16)).err ≠ 0#8 ∧
      (latchedWith (.command 0x0255#16)).hostQueue = .command 0x0255#16 :: [] ∧
      0x0255#16 ≠ 0x0500#16 ∧ 0x0255#16 ≠ 0x0600#16 := by decide
theorem witness_LatchedBlock_command :
    (latchedWith .hardReset).err ≠ 0#8 ∧ Instr.compress ≠ .eclr ∧ Instr.compress ≠ .srst := by decide
theorem witness_LatchedBlock_eclr :
    (latchedWith (.command 0x0500#16)).hostQueue = .command 0x0500#16 :: [] := by decide
theorem witness_LatchedBlock_srst :
    (latchedWith (.command 0x0600#16)).hostQueue = .command 0x0600#16 :: [] := by decide
theorem witness_LatchedBlock_reads :
    (latchedWith (.readReg 0x01)).hostQueue = .readReg 0x01 :: [] ∧
      (latchedWith (.readElement (.obuf 0))).hostQueue = .readElement (.obuf 0) :: [] := by decide
theorem witness_LatchedBlock_setlen :
    (latchedWith (.writeReg 0x03 9#64)).hostQueue = .writeReg 0x03 9#64 :: [] ∧ 3 ≤ 3 := by decide

theorem witness_HostActions_writes :
    (withQueue [.writeReg 0x03 5#64]).hostQueue = .writeReg 0x03 5#64 :: [] ∧
      (withQueue [.writeReg 0x09 (BitVec.setWidth 64 0x4100#16)]).hostQueue =
        .writeReg 0x09 (BitVec.setWidth 64 0x4100#16) :: [] ∧
      (withQueue [.writeReg 0x04 5#64]).hostQueue = .writeReg 0x04 5#64 :: [] ∧
      (0x04 ≠ 0x03 ∧ 0x04 ≠ 0x09) := by decide
theorem witness_HostActions_others :
    (withQueue [.readReg 0x09]).hostQueue = .readReg 0x09 :: [] ∧
      (withQueue [.readElement (.ct 0)]).hostQueue = .readElement (.ct 0) :: [] ∧
      (withQueue [.hardReset]).hostQueue = .hardReset :: [] ∧ State.reset.hostQueue = [] := by decide

/-- BUILD at reset faults (P9): the hypotheses of the statements on a faulting word. -/
theorem witness_FaultChangesOnlyTheLatch : ∃ t, State.reset.err = 0#8 ∧
    State.reset.errcmd = 0#16 ∧ execWord 0x3000#16 State.reset = .next t ∧ t.err ≠ 0#8 :=
  ⟨after (execWord 0x3000#16 State.reset), by decide, by decide,
    eq_next_after (by decide +kernel), by decide +kernel⟩
theorem witness_FaultChangesOnlyTheLatch_illegal : ∃ t, State.reset.err = 0#8 ∧
    State.reset.errcmd = 0#16 ∧ execWord 0xFFFF#16 State.reset = .next t ∧ t.err ≠ 0#8 :=
  ⟨after (execWord 0xFFFF#16 State.reset), by decide, by decide,
    eq_next_after (by decide +kernel), by decide +kernel⟩

/-- No nesting: under the latch an illegal word has a next state too. -/
theorem witness_EclrReturns_nesting : ∃ t, (latchedWith .hardReset).err ≠ 0#8 ∧
    execWord 0xFFFF#16 (latchedWith .hardReset) = .next t :=
  ⟨after (execWord 0xFFFF#16 (latchedWith .hardReset)), by decide, eq_next_after (by decide +kernel)⟩

theorem witness_CommandsRaiseOnlyTheirFaults : ∃ t,
    Instr.assemble ∈ [Instr.fnew, .finalize, .build, .gentable, .compress, .assemble] ∧
      State.reset.err = 0#8 ∧ exec .assemble State.reset = .next t ∧ t.err = 6#8 :=
  ⟨after (exec .assemble State.reset), by decide, by decide, eq_next_after (by decide +kernel),
    by decide +kernel⟩

theorem witness_PreconditionFault_listed : ∃ t, State.reset.err = 0#8 ∧
    exec .build State.reset = .next t ∧ preconditionFails .build State.reset :=
  ⟨after (exec .build State.reset), by decide, eq_next_after (by decide +kernel), rfl⟩
/-- The boundary of DECLEN: 7 unread bytes fail, 8 do not. -/
theorem witness_PreconditionFault_declen :
    preconditionFails .declen (withInput (List.replicate 7 0)) ∧
      ¬ preconditionFails .declen (withInput (List.replicate 8 0)) := by
  constructor
  · show (unreadOf (withInput (List.replicate 7 0))).length < 8
    decide
  · show ¬ (unreadOf (withInput (List.replicate 8 0))).length < 8
    decide

/-- The boundary of IPUSH: the byte that fills IBUF fits, the next does not. -/
theorem witness_Ipush_boundary :
    ({ withCaps 2 64 64 with ibuf := [1] } : State).err = 0#8 ∧
    fits ({ withCaps 2 64 64 with ibuf := [1] } : State).caps.ibuf 2 ∧
    ¬ fits ({ withCaps 2 64 64 with ibuf := [1, 2] } : State).caps.ibuf 3 := by
  refine ⟨by decide, ?_, ?_⟩
  · show 2 ≤ (2#64).toNat
    decide
  · show ¬ 3 ≤ (2#64).toNat
    decide
theorem witness_Bpush_boundary :
    ({ withCaps 2 64 3 with bbuf := [true, true] } : State).err = 0#8 ∧
    fits ({ withCaps 2 64 3 with bbuf := [true, true] } : State).caps.bbuf 3 ∧
    ¬ fits ({ withCaps 2 64 3 with bbuf := [true, true, true] } : State).caps.bbuf 4 := by
  refine ⟨by decide, ?_, ?_⟩
  · show 3 ≤ (3#64).toNat
    decide
  · show ¬ 4 ≤ (3#64).toNat
    decide
theorem witness_CapacityFault_listed : ∃ t, (withCaps 0 0 0).err = 0#8 ∧
    exec .enclen (withCaps 0 0 0) = .next t ∧ capacityFails .enclen (withCaps 0 0 0) :=
  ⟨after (exec .enclen (withCaps 0 0 0)), by decide, eq_next_after (by decide +kernel), by
    show ¬ 8 ≤ (0#64).toNat
    decide⟩

/-- No fault is latched at reset: the hypothesis of the result statements without another one. -/
theorem witness_quiet : State.reset.err = 0#8 := by decide

/-- FLATTEN at the boundary: 8 bits fit BBUF_CAP = 8, 16 do not. -/
theorem witness_Flatten_boundary :
    ({ withCaps 64 64 8 with ibuf := [1] } : State).err = 0#8 ∧
    fits (withCaps 64 64 8).caps.bbuf (8 * ([1] : List Byte).length) ∧
    ¬ fits (withCaps 64 64 8).caps.bbuf (8 * ([1, 2] : List Byte).length) ∧
    0 < ([1] : List Byte).length ∧ 7 < 8 := by
  refine ⟨by decide, ?_, ?_, by decide, by decide⟩
  · show 8 ≤ (8#64).toNat
    decide
  · show ¬ 16 ≤ (8#64).toNat
    decide
/-- PACK at the boundary: 9 bits need 2 bytes. -/
theorem witness_Pack_boundary :
    fits (withCaps 64 2 64).caps.obuf ((9 + 7) / 8) ∧
    ¬ fits (withCaps 64 1 64).caps.obuf ((9 + 7) / 8) ∧
    1 < (pack (List.replicate 9 false)).length := by
  refine ⟨?_, ?_, by decide⟩
  · show 2 ≤ (2#64).toNat
    decide
  · show ¬ 2 ≤ (1#64).toNat
    decide
theorem witness_Enclen_boundary :
    fits (withCaps 64 8 64).caps.obuf 8 ∧ ¬ fits (withCaps 64 7 64).caps.obuf 8 := by
  constructor
  · show 8 ≤ (8#64).toNat
    decide
  · show ¬ 8 ≤ (7#64).toNat
    decide
theorem witness_Declen_boundary :
    8 ≤ (unreadOf (withInput (List.replicate 8 1))).length ∧
      (unreadOf (withInput (List.replicate 7 1))).length < 8 := by decide
theorem witness_BitConverterLaws :
    ([true, false, true] : List Bit).length % 8 ≠ 0 ∧ 4 < 8 - ([true, false, true] : List Bit).length % 8 ∧
      (List.replicate 8 true).length % 8 = 0 ∧ (List.replicate 8 0x41#8).length = 8 := by decide

theorem witness_Finalize : State.reset.fcOpen = true ∧
    ({ State.reset with fcOpen := false } : State).fcOpen = false := by decide
/-- A closed counter that a command leaves alone. -/
theorem witness_Finalize_frozen : ∃ t, ({ State.reset with fcOpen := false } : State).err = 0#8 ∧
    ({ State.reset with fcOpen := false } : State).fcOpen = false ∧
    exec .build { State.reset with fcOpen := false } = .next t ∧
    Instr.build ∉ [Instr.fnew, .compress, .srst] :=
  ⟨after (exec .build { State.reset with fcOpen := false }), by decide, by decide,
    eq_next_after (by decide +kernel), by decide⟩
/-- FEED at the boundary: a count of 2^64 - 2 still counts, 2^64 - 1 does not. -/
theorem witness_Feed_boundary :
    State.reset.fcOpen = true ∧
    (fileGet (fileSet zeroFreq 7 (BitVec.allOnes 64 - 1)) 7).toNat < 2 ^ 64 - 1 ∧
    (fileGet (fileSet zeroFreq 7 (BitVec.allOnes 64)) 7).toNat = 2 ^ 64 - 1 ∧
    (3 : Byte) ≠ 7 := by decide +kernel
theorem witness_FeedingCountsTheInput : State.reset.err = 0#8 ∧ inputC.length < 2 ^ 64 := by decide

theorem witness_Build : State.reset.fcOpen = true ∧ countsV9.fcOpen = false ∧ countsV9.err = 0#8 := by
  decide
/-- The placeholder tree is what the merge relation makes of no counts. -/
theorem witness_TreeIsAFunctionOfTheCounts : ({ State.reset with fcOpen := false } : State).err = 0#8 ∧
    ({ State.reset with fcOpen := false } : State).fcOpen = false ∧
    BuildRelates ({ State.reset with fcOpen := false } : State).freq
      (nodeSet (Vector.replicate Config.nodeN .unused) 256 .placeholder) 256 :=
  ⟨by decide, by decide, _, [256], 257, .inl ⟨fun c => fileGet_replicate 0#64 c, rfl, rfl, fun i => by
    rw [nodeGet_nodeSet, nodeGet_replicate]⟩, List.pairwise_singleton _ _, Merges.done _ _ _⟩
theorem witness_BuildOfDegenerateCounts :
    (∀ b, fileGet zeroFreq b = 0#64) ∧ fileGet (fileSet zeroFreq 0x41 5) 0x41 ≠ 0#64 ∧
      ∀ c, c ≠ 0x41#8 → fileGet (fileSet zeroFreq 0x41#8 5) c = 0#64 := by
  refine ⟨fun b => by simp [zeroFreq], by decide +kernel, fun c h => ?_⟩
  rw [fileGet_fileSet, if_neg h]
  simp [zeroFreq]
theorem witness_BeforeIsAStrictTotalOrder :
    ([1, 2, 256] : List NodeId).Nodup ∧ ([256, 1, 2] : List NodeId).Perm [1, 2, 256] ∧
      (1 : NodeId) ≠ 2 := by decide
theorem witness_BuildStaysWithinItsBounds :
    1 ≤ countsV9.freq.toList.countP (fun c => c != 0) ∧ inputC.length < 2 ^ 64 ∧
      (∃ w l r, nodeGet (buildTree countsV9.freq).1 259 = .internal w l r) ∧
      (258 : NodeId) ≠ (buildTree countsV9.freq).2 :=
  ⟨by decide +kernel, by decide, ⟨11, 258, 97, by decide +kernel⟩, by decide +kernel⟩

/-- The tree of 2.3 V4: two leaves of weight 1 under one node. -/
def arenaV4 : Arena :=
  nodeSet (nodeSet (nodeSet (Vector.replicate Config.nodeN .unused) 1 (.leaf 1 1)) 2 (.leaf 2 1))
    256 (.internal 2 1 2)

theorem nodeGet_arenaV4 (i : NodeId) : nodeGet arenaV4 i =
    if i = 256 then .internal 2 1 2 else if i = 2 then .leaf 2 1
      else if i = 1 then .leaf 1 1 else .unused := by
  simp only [arenaV4, nodeGet_nodeSet, nodeGet_replicate]

/-- The tree of 2.3 V4 has the shape R31 promises. -/
theorem witness_TreeShape : TreeShape arenaV4 256 where
  rootUsed := by rw [nodeGet_arenaV4]; decide
  children := by
    intro i w l r h
    rw [nodeGet_arenaV4] at h
    split at h
    · next hi =>
      cases h
      subst hi
      simp only [nodeGet_arenaV4]
      decide
    · split at h
      · cases h
      · split at h <;> cases h
  noneTwice := by
    have h : reach arenaV4 (Config.codeMax + 1) 256 = [256, 1, 2] := by decide +kernel
    rw [h]; decide
  allReached := by
    intro i h
    have hr : reach arenaV4 (Config.codeMax + 1) 256 = [256, 1, 2] := by decide +kernel
    rw [hr]
    rw [nodeGet_arenaV4] at h
    split at h
    · next hi => simp [hi]
    · split at h
      · next hi => simp [hi]
      · split at h
        · next hi => simp [hi]
        · exact absurd rfl h
  placed := by
    intro i
    rw [nodeGet_arenaV4]
    split
    · next hi => subst hi; decide
    · split
      · next hi => subst hi; decide
      · split
        · next hi => subst hi; decide
        · rfl

theorem witness_Gentable :
    ({ State.reset with nodes := arenaV4, root := 256, treeValid := true } : State).treeValid = true ∧
      State.reset.treeValid = false := by decide
theorem witness_DegenerateTrees :
    nodeGet (nodeSet (Vector.replicate Config.nodeN .unused) 65 (.leaf 0x41 5)) 65 = .leaf 0x41 5 ∧
    nodeGet (nodeSet (Vector.replicate Config.nodeN .unused) 256 .placeholder) 256 = .placeholder := by
  simp [nodeGet_nodeSet]
/-- A placeholder tree in a state without a fault: BUILD of no counts. -/
theorem witness_DegenerateTrees_state :
    let s := after (exec .build { State.reset with fcOpen := false })
    s.err = 0#8 ∧ s.treeValid = true ∧ nodeGet s.nodes s.root = .placeholder := by decide +kernel
/-- A built table with two entries and more. -/
theorem witness_BuiltTables :
    (fileGet (tableOf (buildTree countsV9.freq).1 (buildTree countsV9.freq).2) 0x61).isSome = true ∧
    (fileGet (tableOf (buildTree countsV9.freq).1 (buildTree countsV9.freq).2) 0x62).isSome = true ∧
    (0x61 : Byte) ≠ 0x62 := by decide +kernel

/-- The one-entry table of Scenario B fits, and its longest code is within the bound. -/
theorem witness_CodesFit : CodesFit (fileSet emptyTable 0x41 (some [])) := by
  intro b code h
  rw [fileGet_fileSet] at h
  split at h
  · cases h; decide
  · simp [emptyTable] at h

theorem witness_Serialize_flags :
    (withTable tableC).ctValid = true ∧ State.reset.ctValid = false ∧
      fits (withCaps 64 11 64).caps.obuf recordsC.length ∧
      ¬ fits (withCaps 64 10 64).caps.obuf recordsC.length := by
  refine ⟨by decide, by decide, ?_, ?_⟩
  · show 11 ≤ (11#64).toNat
    decide
  · show ¬ 11 ≤ (10#64).toNat
    decide

/-- 2.6 V2 and V1: sources of the grammar. -/
theorem witness_Parses_record :
    Parses (unreadOf (withInput [0x41, 0x03])) (tableOfRecords [(0x41, [])]) 2 :=
  .inr ⟨[], (0x41, []), [], by decide, by decide, by decide, rfl⟩
theorem witness_Parses_empty :
    Parses (unreadOf (withInput [0x03])) (Vector.replicate 256 none) 1 := .inl ⟨rfl, rfl, rfl⟩
/-- 2.6 V7: the empty source is no table. -/
theorem witness_Parses_none : ∀ T p, ¬ Parses (unreadOf (withInput [])) T p := by
  rintro T p (⟨h, _, _⟩ | ⟨es, e, rest, _, h, _, _⟩)
  · cases h
  · have := congrArg List.length h
    simp [unreadOf, withInput, lastRecord, State.reset, State.resetWith] at this

theorem witness_TableRoundTrip :
    CodesFit (fileSet emptyTable 0x41 (some [])) ∧ ∃ b, fileGet (fileSet emptyTable 0x41 (some [])) b ≠ none :=
  ⟨witness_CodesFit, 0x41, by simp⟩

/-- ENCODE with the Scenario C table, and without an entry. -/
theorem witness_Encode :
    (withTable tableC).err = 0#8 ∧ (withTable tableC).ctValid = true ∧
    (unreadOf { withTable tableC with ibuf := [0x02, 0x01] }).map (fileGet (withTable tableC).ct) =
      [[false], [true, false]].map some ∧
    0x07#8 ∈ unreadOf { withTable tableC with ibuf := [0x07] } ∧
    fileGet (withTable tableC).ct 0x07 = none := by decide +kernel
/-- ENCODE at the boundary: 3 code bits fit BBUF_CAP = 3 and not 2. -/
theorem witness_Encode_boundary :
    fits (withCaps 8 8 3).caps.bbuf ([[false], [true, false]] : List Code).flatten.length ∧
    ¬ fits (withCaps 8 8 2).caps.bbuf ([[false], [true, false]] : List Code).flatten.length := by
  constructor
  · show 3 ≤ (3#64).toNat
    decide
  · show ¬ 3 ≤ (2#64).toNat
    decide

theorem witness_Compress_fits :
    (withInput inputC).err = 0#8 ∧ (unreadOf (withInput inputC)).length ≤ 2 ^ 64 - 1 ∧
    fits (withInput inputC).caps.bbuf 9 ∧ fits (withInput inputC).caps.obuf 2 :=
  ⟨by decide, by decide, trivial, trivial⟩
/-- 2.8 V12: 9 code bits do not fit BBUF_CAP = 8. -/
theorem witness_Compress_full : ¬ fits (withCaps 64 64 8).caps.bbuf
    (encodeBytes (tableOf (buildTree (countBytes inputC)).1 (buildTree (countBytes inputC)).2)
      inputC).length := by
  have h : (encodeBytes (tableOf (buildTree (countBytes inputC)).1 (buildTree (countBytes inputC)).2)
      inputC).length = 9 := by decide +kernel
  rw [h]
  show ¬ 9 ≤ (8#64).toNat
  decide
theorem witness_CompressIsItsUnitCommands : ∃ t, (withInput inputC).err = 0#8 ∧
    exec .compress (withInput inputC) = .next t ∧ t.err = 0#8 :=
  ⟨after (exec .compress (withInput inputC)), by decide, eq_next_after (by decide +kernel),
    by decide +kernel⟩
theorem witness_Assemble :
    (after (exec .compress (withInput inputC))).treeValid = true ∧ State.reset.treeValid = false := by
  decide +kernel
/-- ASSEMBLE at the boundary (2.8 V11): 21 bytes fit OBUF_CAP = 21 and not 20. -/
theorem witness_Assemble_boundary :
    fits (withCaps 64 21 64).caps.obuf containerC.length ∧
      ¬ fits (withCaps 64 20 64).caps.obuf containerC.length := by
  constructor
  · show 21 ≤ (21#64).toNat
    decide
  · show ¬ 21 ≤ (20#64).toNat
    decide
theorem witness_ContainersOfTheBlock : ∃ t u, (withInput inputC).err = 0#8 ∧
    exec .compress (withInput inputC) = .next t ∧ t.err = 0#8 ∧
    exec .assemble t = .next u ∧ u.err = 0#8 :=
  ⟨after (exec .compress (withInput inputC)),
    after (exec .assemble (after (exec .compress (withInput inputC)))), by decide,
    eq_next_after (by decide +kernel), by decide +kernel, eq_next_after (by decide +kernel),
    by decide +kernel⟩

/-- DECODE: LEN = OBUF_CAP fits, one more does not; the three outcomes of decoding. -/
theorem witness_Decode_boundary :
    (withTable tableC).ctValid = true ∧ State.reset.ctValid = false ∧
      fits (withCaps 8 6 8).caps.obuf (6#64).toNat ∧
      ¬ fits (withCaps 8 6 8).caps.obuf (7#64).toNat := by
  refine ⟨by decide, by decide, ?_, ?_⟩
  · show (6#64).toNat ≤ (6#64).toNat
    decide
  · show ¬ (7#64).toNat ≤ (6#64).toNat
    decide
theorem witness_Decode_ok : decodeLoop (tableOfRecords tableC) 2 [false, true, false]
    (2 + 3 + 1) [] [] 0 = some (.ok [0x02, 0x01]) := by decide +kernel
theorem witness_Decode_error : decodeLoop (tableOfRecords tableC) 2 [false, true]
    (2 + 2 + 1) [] [] 0 = some (.error .decodeError) := by decide +kernel
theorem witness_Decode_unknown : decodeLoop (tableOfRecords [(0x41, [false, false])]) 1 [false, true]
    (1 + 2 + 1) [] [] 0 = some (.error .unknownCode) := by decide +kernel
theorem witness_ZeroLengthCode :
    fileGet (fileSet emptyTable 0x41#8 (some [])) 0x41#8 = some [] ∧
      ∀ c : Byte, c < 0x41#8 → fileGet (fileSet emptyTable 0x41#8 (some [])) c ≠ some [] := by
  refine ⟨by simp, fun c h => ?_⟩
  have hne : c ≠ 0x41#8 := fun e => by subst e; exact absurd h (by decide)
  rw [fileGet_fileSet, if_neg hne]
  simp [emptyTable]
/-- 2.9 V20 and V23: two byte values with one code, and nested codes, both decoding. -/
theorem witness_ForeignTables_equal :
    (0x41 : Byte) < 0x50 ∧
    fileGet (tableOfRecords [(0x50, [false]), (0x41, [false])]) 0x50 = some [false] ∧
    fileGet (tableOfRecords [(0x50, [false]), (0x41, [false])]) 0x41 = some [false] ∧
    decodeBits (tableOfRecords [(0x50, [false]), (0x41, [false])]) 2 [false, false] =
      .ok [0x41, 0x41] := by decide +kernel
theorem witness_ForeignTables_nested :
    fileGet (tableOfRecords [(0x41, [false]), (0x42, [false, true])]) 0x42 = some [false, true] ∧
    fileGet (tableOfRecords [(0x41, [false]), (0x42, [false, true])]) 0x41 = some [false] ∧
    ([false] : Code) <+: [false, true] ∧ ([false] : Code) ≠ [false, true] ∧
    decodeBits (tableOfRecords [(0x41, [false]), (0x42, [false, true])]) 1 [false, true] =
      .ok [0x41] := by decide +kernel
theorem witness_ForeignTables_empty : (∀ b, fileGet emptyTable b = none) ∧ 0 < 1 :=
  ⟨fun b => by simp [emptyTable], by decide⟩
/-- The table of 2.4 V4 is prefix-free. -/
theorem witness_DecodingInvertsEncoding :
    PrefixFree (fileSet (fileSet emptyTable 1 (some [false])) 2 (some [true])) ∧
      ∀ b ∈ [(1 : Byte), 2, 1],
        fileGet (fileSet (fileSet emptyTable 1 (some [false])) 2 (some [true])) b ≠ none := by
  constructor
  · intro b b' code code' hne h h' hp
    simp only [fileGet_fileSet, emptyTable, fileGet_replicate] at h h'
    split at h <;> split at h' <;> (try split at h) <;> (try split at h') <;>
      simp_all <;> (subst h h'; revert hp; decide)
  · decide +kernel

/-- DECOMPRESS: 7 bytes are too few, 8 are not; then no table, then the Scenario B container. -/
theorem witness_Decompress_lengths :
    (unreadOf (withInput (List.replicate 7 0))).length < 8 ∧
      8 ≤ (unreadOf (withInput (List.replicate 8 0))).length := by decide
theorem witness_Decompress_noTable :
    8 ≤ (unreadOf (withInput (List.replicate 8 0))).length ∧
    ∀ T p, ¬ Parses ((unreadOf (withInput (List.replicate 8 0))).drop 8) T p := by
  refine ⟨by decide, fun T p h => ?_⟩
  have e : (unreadOf (withInput (List.replicate 8 0))).drop 8 = unreadOf (withInput []) := by decide
  rw [e] at h
  exact witness_Parses_none T p h
theorem witness_Decompress_parses :
    8 ≤ (unreadOf (withInput (length8 5 ++ [0x41, 0x03]))).length ∧
    Parses ((unreadOf (withInput (length8 5 ++ [0x41, 0x03]))).drop 8) (tableOfRecords [(0x41, [])]) 2 ∧
    decodeBits (tableOfRecords [(0x41, [])])
      (decodeLength ((unreadOf (withInput (length8 5 ++ [0x41, 0x03]))).take 8)).toNat [] =
      .ok (List.replicate 5 0x41) :=
  ⟨by decide, .inr ⟨[], (0x41, []), [], by decide, by decide, by decide, rfl⟩,
    by decide +kernel⟩
/-- DECOMPRESS at the boundary: the 2 payload bytes of Scenario C fit BBUF_CAP = 16 and not 15, its 6
bytes OBUF_CAP = 6 and not 5. -/
theorem witness_Decompress_boundary :
    fits (withCaps 64 6 16).caps.bbuf (8 * (containerC.length - 8 - recordsC.length)) ∧
    ¬ fits (withCaps 64 6 15).caps.bbuf (8 * (containerC.length - 8 - recordsC.length)) ∧
    fits (withCaps 64 6 16).caps.obuf (decodeLength (containerC.take 8)).toNat ∧
    ¬ fits (withCaps 64 5 16).caps.obuf (decodeLength (containerC.take 8)).toNat := by
  refine ⟨?_, ?_, ?_, ?_⟩
  · show 8 * (containerC.length - 8 - recordsC.length) ≤ (16#64).toNat
    decide
  · show ¬ 8 * (containerC.length - 8 - recordsC.length) ≤ (15#64).toNat
    decide
  · show (decodeLength (containerC.take 8)).toNat ≤ (6#64).toNat
    decide
  · show ¬ (decodeLength (containerC.take 8)).toNat ≤ (5#64).toNat
    decide
theorem witness_DecompressIsItsUnitCommands : ∃ t, (withInput containerC).err = 0#8 ∧
    exec .decompress (withInput containerC) = .next t ∧ t.err = 0#8 ∧
    (Instr.decompress = .decode ∨ Instr.decompress = .decompress) :=
  ⟨after (exec .decompress (withInput containerC)), by decide, eq_next_after (by decide +kernel),
    by decide +kernel, by decide⟩

/-- The state after loading and COMPRESS, in the Scenario C run from reset. -/
def compressedC : State := after (runCommands (loadInput inputC ++ [.compress]) State.reset)

/-- The state after ASSEMBLE, in the Scenario C run from reset. -/
def assembledC : State := after (exec .assemble compressedC)

theorem assembledC_obuf : assembledC.obuf = containerC := by decide +kernel

/-- Loading bytes into an unbounded buffer appends them. -/
theorem runCommands_ipush (bytes front : List Byte) :
    runCommands (bytes.map .ipush) { State.reset with ibuf := front } =
      .next { State.reset with ibuf := front ++ bytes } := by
  induction bytes generalizing front with
  | nil => simp [runCommands]
  | cons b bytes ih =>
    have h : exec (.ipush b) { State.reset with ibuf := front } =
      .next { State.reset with ibuf := front ++ [b] } := rfl
    simp only [List.map_cons, runCommands, h, ih]
    simp

/-- The round trip of Scenario C meets all of its hypotheses. -/
theorem witness_ContainerRoundTrip : inputC.length < 2 ^ 64 ∧ State.reset.err = 0#8 ∧
    runCommands (loadInput inputC ++ [.compress]) State.reset = .next compressedC ∧
    compressedC.err = 0#8 ∧ exec .assemble compressedC = .next assembledC ∧ assembledC.err = 0#8 :=
  ⟨by decide, by decide, eq_next_after (by decide +kernel), by decide +kernel,
    eq_next_after (by decide +kernel), by decide +kernel⟩
/-- Its second half: loading the container and decompressing it, from reset. -/
theorem witness_ContainerRoundTrip_second : ∃ z,
    runCommands (loadInput assembledC.obuf) State.reset =
      .next { State.reset with ibuf := assembledC.obuf, ipos := 0 } ∧
    exec .decompress { State.reset with ibuf := assembledC.obuf, ipos := 0 } = .next z ∧
    z.err ≠ 7#8 := by
  rw [assembledC_obuf]
  exact ⟨after (exec .decompress { State.reset with ibuf := containerC, ipos := 0 }),
    runCommands_ipush containerC [], eq_next_after (by decide +kernel), by decide +kernel⟩

/-- The hypotheses of the statements over every command: each has a next state somewhere. -/
theorem witness_OnlyListedCommandsWrite : ∃ t, exec .nop (latchedWith .hardReset) = .next t ∧
    (latchedWith .hardReset).err ≠ 0#8 ∧ Instr.nop ∉ [Instr.eclr, .srst] :=
  ⟨after (exec .nop (latchedWith .hardReset)), eq_next_after (by decide +kernel), by decide, by decide⟩
/-- The flags do change: FINALIZE clears FC_OPEN, SRST clears CT_VALID. -/
theorem witness_OnlyListedCommandsWriteTheFlags : ∃ t u,
    exec .finalize State.reset = .next t ∧ State.reset.fcOpen = true ∧ t.fcOpen = false ∧
    exec .srst (withTable tableC) = .next u ∧ (withTable tableC).ctValid = true ∧ u.ctValid = false :=
  ⟨after (exec .finalize State.reset), after (exec .srst (withTable tableC)),
    eq_next_after (by decide +kernel), by decide, by decide +kernel, eq_next_after (by decide +kernel),
    by decide, by decide +kernel⟩

/-- A state with a tree, a table and input that meets the invariants, with a command waiting. -/
def stateV4 : State :=
  { withCaps 2 4 8 with
    ibuf := [1, 2], ipos := 1, obuf := [1, 2, 3, 4], bbuf := [true], err := 7#8, nodes := arenaV4,
    root := 256, treeValid := true, ct := fileSet emptyTable 0x41 (some []), ctValid := true,
    hostQueue := [.command 0x0500#16] }

theorem witness_StepKeepsTheInvariants : ∃ t, stateV4.Inv ∧ step stateV4 = .next t :=
  ⟨after (step stateV4),
    { cursor := by decide
      ibufFits := by decide
      obufFits := by decide
      bbufFits := by decide
      errLegal := by decide
      tree := fun _ => witness_TreeShape
      table := fun _ => witness_CodesFit },
    eq_next_after (by decide +kernel)⟩

/-- Host reads of an element, a node and an entry that are there, and of the first that is not. -/
theorem witness_HostReads :
    stateV4.ibuf.length ≤ 2 ∧ 1 < stateV4.ibuf.length ∧ stateV4.treeValid = true ∧
      nodeGet stateV4.nodes 256 = .internal 2 1 2 ∧ stateV4.ctValid = true ∧
      fileGet stateV4.ct 0x41 = some [] ∧ fileGet stateV4.ct 0x42 = none := by decide +kernel

end Sys2Proof.Tests
end

/-! The decoder and the encoder on the two bytes of a command word, the rows of the opcode map, and the count
of the legal words (spec/30_encoding.md rules R60 to R64). -/

namespace Sys2Proof.Encoding

open Sys2Proof.Machine Sys2Proof.Certificates

/-! ### The two bytes of a word -/

@[simp] theorem opcodeOf_append (o l : Byte) : opcodeOf (o ++ l) = o :=
  BitVec.extractLsb'_append_eq_left

@[simp] theorem lowByteOf_append (o l : Byte) : lowByteOf (o ++ l) = l :=
  BitVec.extractLsb'_append_eq_right

@[simp] theorem opcodeOf_and (v w : CmdWord) : opcodeOf (v &&& w) = opcodeOf v &&& opcodeOf w :=
  BitVec.extractLsb'_and

@[simp] theorem lowByteOf_and (v w : CmdWord) : lowByteOf (v &&& w) = lowByteOf v &&& lowByteOf w :=
  BitVec.extractLsb'_and

/-- A word is its opcode followed by its low byte (R60). -/
theorem opcodeOf_append_lowByteOf (w : CmdWord) : opcodeOf w ++ lowByteOf w = w := by
  unfold opcodeOf lowByteOf
  rw [BitVec.extractLsb'_append_extractLsb'_eq_extractLsb' (by rfl)]
  exact BitVec.extractLsb'_eq_self

/-- Two words are equal when their opcodes and their low bytes are. -/
theorem word_eq_iff {v w : CmdWord} :
    v = w ↔ opcodeOf v = opcodeOf w ∧ lowByteOf v = lowByteOf w := by
  constructor
  · rintro rfl
    exact ⟨rfl, rfl⟩
  · rintro ⟨hopcode, hlow⟩
    rw [← opcodeOf_append_lowByteOf v, hopcode, hlow, opcodeOf_append_lowByteOf]

/-- A word is the encoding of a command exactly when its bytes are the command's (R60). -/
theorem encode_eq_iff (i : Instr) (w : CmdWord) :
    encode i = w ↔ opcodeOf w = i.opcode ∧ lowByteOf w = i.lowByte := by
  simp [word_eq_iff, encode, eq_comm]

/-! ### Decoding is the inverse of encoding -/

theorem decodeN_eq_some_iff {low : Byte} {i j : Instr} :
    decodeN low i = some j ↔ low = 0#8 ∧ i = j := by
  simp [decodeN]

/-- A byte whose upper seven bits are 0 is its bit 0 (format T of R60). -/
theorem eq_bit_of_upper_eq_zero {low : Byte} (h : low.extractLsb' 1 7 = 0#7) :
    low = BitVec.ofNat 8 (low.getLsbD 0).toNat := by
  revert low; decide

theorem decodeT_eq_some {low : Byte} {make : Bit → Instr} {j : Instr}
    (h : decodeT low make = some j) : ∃ t, low = BitVec.ofNat 8 t.toNat ∧ make t = j := by
  simp only [decodeT, Option.ite_none_right_eq_some, Option.some.injEq] at h
  exact ⟨_, eq_bit_of_upper_eq_zero h.1, h.2⟩

/-- The decoder answers a command only for the word with that command's two bytes. -/
theorem encode_of_decode {w : CmdWord} {i : Instr} (h : decode w = some i) : encode i = w := by
  rw [encode_eq_iff]
  have hopcode : opcodeOf w = BitVec.ofNat 8 (opcodeOf w).toNat := by simp
  unfold decode at h
  generalize (opcodeOf w).toNat = n at h hopcode
  split at h
  -- IPUSH and FEED, then BPUSH, then the opcodes of no row; format N is left.
  case h_3 | h_13 => cases h; exact ⟨hopcode, rfl⟩
  case h_5 =>
    obtain ⟨t, hlow, rfl⟩ := decodeT_eq_some h
    exact ⟨hopcode, hlow⟩
  case h_24 => cases h
  all_goals
    obtain ⟨hlow, rfl⟩ := decodeN_eq_some_iff.1 h
    exact ⟨hopcode, hlow⟩

/-- Every command at every operand survives the round trip through its word. -/
@[simp] theorem decode_encode (i : Instr) : decode (encode i) = some i := by
  cases i with
  | ipush b => simp [decode, encode, Instr.opcode, Instr.lowByte]
  | feed b => simp [decode, encode, Instr.opcode, Instr.lowByte]
  | bpush t => cases t <;> rfl
  | _ => rfl

theorem decode_eq_some_iff {w : CmdWord} {i : Instr} : decode w = some i ↔ encode i = w :=
  ⟨encode_of_decode, fun h => h ▸ decode_encode i⟩

theorem encode_injective : Function.Injective encode := fun i j h => by
  simpa using congrArg decode h

/-! ### The rows of the opcode map -/

/-- What the commands a row makes have in common with it: its `match` is their opcode, its `mask` keeps the
whole opcode, and their low byte is what the mask leaves out of the word. -/
structure RowAgrees (row : OpcodeRow) : Prop where
  pattern (w : CmdWord) : row.pattern = (row.make w).opcode ++ 0#8
  opcodeMask : opcodeOf row.mask = BitVec.allOnes 8
  lowByte (w : CmdWord) : (row.make w).lowByte = lowByteOf w &&& ~~~lowByteOf row.mask

/-- A row of format N: the mask leaves out nothing. -/
theorem rowAgrees_plain (i : Instr) {p : CmdWord} (hp : p = i.opcode ++ 0#8) (hlow : i.lowByte = 0#8) :
    RowAgrees ⟨p, 0xFFFF#16, fun _ => i⟩ where
  pattern _ := hp
  opcodeMask := show opcodeOf 0xFFFF#16 = _ by decide
  lowByte w := by
    have hmask : ~~~lowByteOf 0xFFFF#16 = 0#8 := by decide
    rw [hlow, hmask, BitVec.and_zero]

theorem setWidth_eq_lowByteOf (w : CmdWord) : w.setWidth 8 = lowByteOf w := by
  ext k hk
  simp [lowByteOf]

/-- A row of format B: the mask leaves out the low byte. -/
theorem rowAgrees_byte (make : Byte → Instr) (o : Byte) {p : CmdWord} (hp : p = o ++ 0#8)
    (ho : ∀ b, (make b).opcode = o) (hlow : ∀ b, (make b).lowByte = b) :
    RowAgrees ⟨p, 0xFF00#16, fun w => make (w.setWidth 8)⟩ where
  pattern _ := by rw [hp, ho]
  opcodeMask := show opcodeOf 0xFF00#16 = _ by decide
  lowByte w := by
    have hmask : ~~~lowByteOf 0xFF00#16 = BitVec.allOnes 8 := by decide
    rw [hlow, hmask, BitVec.and_allOnes, setWidth_eq_lowByteOf]

theorem bit_eq_and_one (low : Byte) : BitVec.ofNat 8 (low.getLsbD 0).toNat = low &&& 0x01#8 := by
  revert low; decide

/-- A row of format T: the mask leaves out bit 0. -/
theorem rowAgrees_bit (make : Bit → Instr) (o : Byte) {p : CmdWord} (hp : p = o ++ 0#8)
    (ho : ∀ t, (make t).opcode = o) (hlow : ∀ t, (make t).lowByte = BitVec.ofNat 8 t.toNat) :
    RowAgrees ⟨p, 0xFFFE#16, fun w => make (w.getLsbD 0)⟩ where
  pattern _ := by rw [hp, ho]
  opcodeMask := show opcodeOf 0xFFFE#16 = _ by decide
  lowByte w := by
    have hmask : ~~~lowByteOf 0xFFFE#16 = 0x01#8 := by decide
    have hbit : w.getLsbD 0 = (lowByteOf w).getLsbD 0 := by simp [lowByteOf]
    rw [hlow, hmask, hbit, bit_eq_and_one]

theorem opcodeMap_agrees : ∀ row ∈ opcodeMap, RowAgrees row := by
  simp only [opcodeMap, List.cons_append, List.nil_append, List.forall_mem_cons]
  exact
    ⟨rowAgrees_plain .nop (by decide) rfl, rowAgrees_plain .iclr (by decide) rfl,
      rowAgrees_byte .ipush 0x02#8 (by decide) (fun _ => rfl) fun _ => rfl,
      rowAgrees_plain .bclr (by decide) rfl,
      rowAgrees_bit .bpush 0x04#8 (by decide) (fun _ => rfl) fun _ => rfl,
      rowAgrees_plain .eclr (by decide) rfl, rowAgrees_plain .srst (by decide) rfl,
      rowAgrees_plain .flatten (by decide) rfl, rowAgrees_plain .pack (by decide) rfl,
      rowAgrees_plain .enclen (by decide) rfl, rowAgrees_plain .declen (by decide) rfl,
      rowAgrees_plain .fnew (by decide) rfl,
      rowAgrees_byte .feed 0x21#8 (by decide) (fun _ => rfl) fun _ => rfl,
      rowAgrees_plain .finalize (by decide) rfl, rowAgrees_plain .build (by decide) rfl,
      rowAgrees_plain .gentable (by decide) rfl, rowAgrees_plain .serialize (by decide) rfl,
      rowAgrees_plain .deserialize (by decide) rfl, rowAgrees_plain .encode (by decide) rfl,
      rowAgrees_plain .compress (by decide) rfl, rowAgrees_plain .assemble (by decide) rfl,
      rowAgrees_plain .decode (by decide) rfl, rowAgrees_plain .decompress (by decide) rfl,
      List.forall_mem_nil _⟩

/-- A mask clears a byte exactly when what it leaves out is the whole byte. -/
theorem and_eq_zero_iff_eq_and_not (low mask : Byte) :
    low &&& mask = 0#8 ↔ low = low &&& ~~~mask := by
  constructor
  · intro h
    ext k hk
    simpa using congrArg (·[k]) h
  · intro h
    rw [h, BitVec.and_assoc]
    simp

/-- A word matches a row exactly when it is the word of the command the row makes of it. -/
theorem RowAgrees.matches_iff {row : OpcodeRow} (h : RowAgrees row) (w : CmdWord) :
    w &&& row.mask = row.pattern ↔ encode (row.make w) = w := by
  rw [encode_eq_iff, word_eq_iff, h.pattern w, h.lowByte w, ← and_eq_zero_iff_eq_and_not,
    opcodeOf_and, lowByteOf_and, h.opcodeMask, BitVec.and_allOnes, opcodeOf_append, lowByteOf_append]

/-- Every command is made of its word by a row of the opcode map. -/
theorem exists_row_make_encode (i : Instr) : ∃ row ∈ opcodeMap, row.make (encode i) = i := by
  simp only [opcodeMap, List.cons_append, List.nil_append, List.exists_mem_cons_iff]
  cases i with
  | ipush b => simp [setWidth_eq_lowByteOf, encode, Instr.lowByte]
  | feed b => simp [setWidth_eq_lowByteOf, encode, Instr.lowByte]
  | bpush t => cases t <;> simp [encode, Instr.opcode, Instr.lowByte]
  | _ => simp

/-- Settles O2: on a row of the map, matching is being the encoding of the command the row makes, and
decoding is the inverse of encoding. -/
theorem wordIsTheCommandOfItsRow : Obligations.WordIsTheCommandOfItsRow := by
  intro row hrow w
  rw [decode_eq_some_iff]
  exact (opcodeMap_agrees row hrow).matches_iff w

/-! ### The illegal words -/

theorem decode_eq_none_iff (w : CmdWord) :
    decode w = none ↔ ∀ row ∈ opcodeMap, w &&& row.mask ≠ row.pattern := by
  constructor
  · intro hnone row hrow hmatch
    simp [(wordIsTheCommandOfItsRow row hrow w).1 hmatch] at hnone
  · intro hrows
    rw [Option.eq_none_iff_forall_ne_some]
    intro i hi
    obtain ⟨row, hrow, hmake⟩ := exists_row_make_encode i
    rw [encode_of_decode hi] at hmake
    exact hrows row hrow ((wordIsTheCommandOfItsRow row hrow w).2 (hmake ▸ hi))

/-- R63 step 2, R155: without a latched fault an illegal word raises IllegalCommand. -/
theorem execWord_illegal {w : CmdWord} {s : State} (hw : decode w = none) (hs : s.err = 0#8) :
    execWord w s = .next (faulted s 5#8 w) := by
  simp [execWord, hw, (State.not_latched_iff s).2 hs, State.raise, faulted, FaultCause.code]

/-! ### The count of the legal words -/

def allBytes : List Byte := (List.finRange 256).map BitVec.ofFin

theorem mem_allBytes (b : Byte) : b ∈ allBytes :=
  List.mem_map.2 ⟨b.toFin, List.mem_finRange _, rfl⟩

theorem nodup_allBytes : allBytes.Nodup :=
  (List.nodup_finRange 256).map fun _ _ h => congrArg BitVec.toFin h

/-- The commands of format N. -/
def plainCommands : List Instr :=
  [.nop, .iclr, .bclr, .eclr, .srst, .flatten, .pack, .enclen, .declen, .fnew, .finalize, .build,
    .gentable, .serialize, .deserialize, .encode, .compress, .assemble, .decode, .decompress]

/-- Every command at every operand. -/
def allCommands : List Instr :=
  (plainCommands ++ [Instr.bpush false, Instr.bpush true]) ++
    (allBytes.map Instr.ipush ++ allBytes.map Instr.feed)

theorem mem_allCommands (i : Instr) : i ∈ allCommands := by
  cases i with
  | ipush b => simp [allCommands, mem_allBytes]
  | feed b => simp [allCommands, mem_allBytes]
  | bpush t => cases t <;> simp [allCommands]
  | _ => simp [allCommands, plainCommands]

theorem nodup_allCommands : allCommands.Nodup := by
  have hfew : (plainCommands ++ [Instr.bpush false, .bpush true]).Nodup := by decide
  have hipush : (allBytes.map Instr.ipush).Nodup :=
    nodup_allBytes.map fun _ _ => Instr.ipush.inj
  have hfeed : (allBytes.map Instr.feed).Nodup :=
    nodup_allBytes.map fun _ _ => Instr.feed.inj
  refine hfew.append (hipush.append hfeed ?_) ?_ <;> simp [List.Disjoint, plainCommands]

theorem length_allCommands : allCommands.length = 534 := by
  simp [allCommands, plainCommands, allBytes]

/-- The legal words are the words of the commands, each once. -/
theorem legalWords_perm :
    ((List.range 65536).filter fun n => (decode (BitVec.ofNat 16 n)).isSome).Perm
      (allCommands.map fun i => (encode i).toNat) := by
  have hinj : Function.Injective fun i => (encode i).toNat :=
    BitVec.toNat_injective.comp encode_injective
  rw [List.perm_ext_iff_of_nodup (List.nodup_range.filter _) (nodup_allCommands.map hinj)]
  intro n
  simp only [List.mem_filter, List.mem_range, Option.isSome_iff_exists, decode_eq_some_iff,
    List.mem_map, mem_allCommands, true_and]
  constructor
  · rintro ⟨hn, i, hi⟩
    exact ⟨i, by rw [hi, BitVec.toNat_ofNat, Nat.mod_eq_of_lt hn]⟩
  · rintro ⟨i, rfl⟩
    exact ⟨(encode i).isLt, i, by simp⟩

theorem length_legalWords :
    ((List.range 65536).filter fun n => (decode (BitVec.ofNat 16 n)).isSome).length = 534 := by
  rw [legalWords_perm.length_eq, List.length_map, length_allCommands]

/-- What `f` answers on and what it does not answer on make up the list. It is stated for numbers `m` and `n`
so that the kernel has no sum of closed list lengths to evaluate when it is used. -/
theorem length_filter_isNone {α β : Type} {l : List α} {f : α → Option β} {m n : Nat}
    (hsome : (l.filter fun a => (f a).isSome).length = m) (hall : l.length = m + n) :
    (l.filter fun a => (f a).isNone).length = n := by
  rw [l.length_eq_length_filter_add fun a => (f a).isSome, hsome] at hall
  simpa only [Option.not_isSome] using Nat.add_left_cancel hall

theorem length_illegalWords :
    ((List.range 65536).filter fun n => (decode (BitVec.ofNat 16 n)).isNone).length = 65002 :=
  length_filter_isNone length_legalWords List.length_range

/-- Settles O3: a word of no row is the word of no command, and the legal words are the 20 commands of
format N, the two BPUSH, and IPUSH and FEED at each of 256 bytes. -/
theorem wordsOfNoRowAreIllegal : Obligations.WordsOfNoRowAreIllegal :=
  ⟨decode_eq_none_iff, fun _ _ => execWord_illegal, length_legalWords, length_illegalWords⟩

end Sys2Proof.Encoding

/-! What the executions of BITCONV's commands are made of: a command that commits or takes a fault, and the
checked write of a buffer in the words `fits` and `faulted` of the statements (rules R53, R63, R158, R159). -/

namespace Sys2Proof.Effects

open Sys2Proof.Machine Sys2Proof.Certificates

theorem capacityAdmits_iff_fits (c : Capacity) (n : Nat) : capacityAdmits c n = true ↔ fits c n := by
  cases c <;> simp [fits]

theorem obufAdmits_iff_fits (s : State) (n : Nat) : s.obufAdmits n = true ↔ fits s.caps.obuf n :=
  capacityAdmits_iff_fits _ _

theorem bbufAdmits_iff_fits (s : State) (n : Nat) : s.bbufAdmits n = true ↔ fits s.caps.bbuf n :=
  capacityAdmits_iff_fits _ _

theorem raise_eq_faulted (s : State) (cause : FaultCause) (w : CmdWord) :
    s.raise cause w = faulted s cause.code w := rfl

variable {i : Instr} {op : State → Except FaultCause State} {s : State} {cause : FaultCause}

/-- A command whose operation raises a fault leaves the state with that fault latched (R159). -/
theorem issue_faulted (hs : s.err = 0#8) (hop : op s = .error cause) :
    issue i op s = .next (faulted s cause.code (encode i)) := by
  rw [issue_error (.inl hs) hop, raise_eq_faulted]

theorem writeObuf_of_fits {bytes : List Byte} (h : fits s.caps.obuf bytes.length) :
    s.writeObuf bytes = .ok (s.putObuf bytes) := by
  rw [writeObuf_eq, if_pos ((obufAdmits_iff_fits s _).2 h)]

theorem writeObuf_of_not_fits {bytes : List Byte} (h : ¬ fits s.caps.obuf bytes.length) :
    s.writeObuf bytes = .error .capacity := by
  rw [writeObuf_eq, if_neg (mt (obufAdmits_iff_fits s _).1 h)]

theorem writeBbuf_of_fits {bits : List Bit} (h : fits s.caps.bbuf bits.length) :
    s.writeBbuf bits = .ok (s.putBbuf bits) := by
  rw [writeBbuf_eq, if_pos ((bbufAdmits_iff_fits s _).2 h)]

theorem writeBbuf_of_not_fits {bits : List Bit} (h : ¬ fits s.caps.bbuf bits.length) :
    s.writeBbuf bits = .error .capacity := by
  rw [writeBbuf_eq, if_neg (mt (bbufAdmits_iff_fits s _).1 h)]

end Sys2Proof.Effects

/-! The bit converter: the bits of `flatten` and of `pack`, the bytes of `encodeLength`, the value of
`decodeLength`, and the commands FLATTEN, PACK, ENCLEN and DECLEN (spec/40_bitconverter.md rules R70 to
R73). -/

namespace Sys2Proof.BitConverter

open Sys2Proof.Machine Sys2Proof.Certificates Sys2Proof.Effects

/-! ### Bytes as bits, most significant first -/

/-- Two bytes are equal when their bits, most significant first, are. -/
theorem byte_ext {a b : Byte} (h : ∀ j < 8, a.getLsbD (7 - j) = b.getLsbD (7 - j)) : a = b := by
  apply BitVec.eq_of_getLsbD_eq
  intro k hk
  simpa [show 7 - (7 - k) = k by omega] using h (7 - k) (by omega)

@[simp] theorem length_bitsOfByte (b : Byte) : (bitsOfByte b).length = 8 := by
  simp [bitsOfByte]

theorem getD_bitsOfByte (b : Byte) {j : Nat} (hj : j < 8) (d : Bit) :
    (bitsOfByte b).getD j d = b.getLsbD (7 - j) := by
  simp [bitsOfByte, hj]

theorem testBit_natOfBitsLE (bits : List Bit) (k : Nat) :
    (natOfBitsLE bits).testBit k = bits.getD k false := by
  induction bits generalizing k with
  | nil => simp [natOfBitsLE]
  | cons b bits ih =>
    cases k with
    | zero => cases b <;> simp [natOfBitsLE, Nat.testBit_zero, Nat.add_mod]
    | succ k =>
      have hhalf : (b.toNat + 2 * natOfBitsLE bits) / 2 = natOfBitsLE bits := by
        have := b.toNat_lt
        omega
      rw [natOfBitsLE, Nat.testBit_succ, hhalf, ih, List.getD_cons_succ]

/-- The value `byteOfBits` computes is that of the reversed bits, the least significant first. -/
theorem foldl_eq_natOfBitsLE (bits : List Bit) :
    bits.foldl (fun acc b => 2 * acc + b.toNat) 0 = natOfBitsLE bits.reverse := by
  induction bits using List.reverseRecOn with
  | nil => rfl
  | append_singleton bits b ih =>
    rw [List.foldl_append, ih, List.reverse_append]
    simp [natOfBitsLE, Nat.add_comm]

/-- Of eight bits, the byte has the first as its most significant. -/
theorem getLsbD_byteOfBits {bits : List Bit} (hlen : bits.length = 8) {j : Nat} (hj : j < 8) :
    (byteOfBits bits).getLsbD (7 - j) = bits.getD j false := by
  have hback : bits.length - 1 - (7 - j) = j := by omega
  rw [byteOfBits, foldl_eq_natOfBitsLE, BitVec.getLsbD_ofNat, testBit_natOfBitsLE,
    List.getD_reverse _ (by omega), hback]
  simp [show 7 - j < 8 by omega]

/-! ### `flatten` (R70) -/

@[simp] theorem flatten_nil : flatten [] = [] := rfl

@[simp] theorem flatten_cons (b : Byte) (x : List Byte) : flatten (b :: x) = bitsOfByte b ++ flatten x :=
  rfl

@[simp] theorem length_flatten (x : List Byte) : (flatten x).length = 8 * x.length := by
  induction x with
  | nil => rfl
  | cons b x ih => simp [ih, Nat.mul_add, Nat.add_comm]

theorem getD_flatten (x : List Byte) (i : Nat) {j : Nat} (hj : j < 8) :
    (flatten x).getD (8 * i + j) false = (x.getD i 0#8).getLsbD (7 - j) := by
  induction x generalizing i with
  | nil => simp
  | cons b x ih =>
    cases i with
    | zero =>
      rw [flatten_cons, List.getD_append _ _ _ _ (by simpa using hj), List.getD_cons_zero, Nat.mul_zero,
        Nat.zero_add, getD_bitsOfByte b hj]
    | succ i =>
      have hskip : 8 * (i + 1) + j - 8 = 8 * i + j := by omega
      rw [flatten_cons, List.getD_append_right _ _ _ _ (by simp; omega), length_bitsOfByte, hskip, ih,
        List.getD_cons_succ]

/-! ### `pack` (R71) -/

/-- A bit of a packed byte is the bit of the sequence, and 1 past its end. -/
theorem getLsbD_packByte (bits : List Bit) (i : Nat) {j : Nat} (hj : j < 8) :
    (packByte bits i).getLsbD (7 - j) = bits.getD (8 * i + j) true := by
  rw [packByte, getLsbD_byteOfBits (by simp) hj]
  simp [hj]

@[simp] theorem length_pack (bits : List Bit) : (pack bits).length = (bits.length + 7) / 8 := by
  simp [pack, packedLength]

@[simp] theorem getElem_pack (bits : List Bit) (i : Nat) (hi : i < (pack bits).length) :
    (pack bits)[i] = packByte bits i := by
  simp [pack]

theorem getLsbD_getD_pack (bits : List Bit) {i j : Nat} (hi : i < (pack bits).length) (hj : j < 8) :
    ((pack bits).getD i 0#8).getLsbD (7 - j) =
      if h : 8 * i + j < bits.length then bits[8 * i + j] else true := by
  rw [List.getD_eq_getElem _ _ hi, getElem_pack, getLsbD_packByte bits i hj]
  split
  case isTrue h => exact List.getD_eq_getElem _ _ h
  case isFalse h => exact List.getD_eq_default _ _ (by omega)

/-! ### `encodeLength` and `decodeLength` (R72, R73) -/

@[simp] theorem length_encodeLength (n : Len) : (encodeLength n).length = 8 := by
  simp [encodeLength]

@[simp] theorem getElem_encodeLength (n : Len) (k : Nat) (hk : k < (encodeLength n).length) :
    (encodeLength n)[k] = (n >>> (8 * (7 - k))).setWidth 8 := by
  simp [encodeLength]

theorem toNat_getD_encodeLength (n : Len) {k : Nat} (hk : k < 8) :
    ((encodeLength n).getD k 0#8).toNat = n.toNat / 2 ^ (8 * (7 - k)) % 256 := by
  rw [List.getD_eq_getElem _ _ (by simpa using hk), getElem_encodeLength, BitVec.toNat_setWidth,
    BitVec.toNat_ushiftRight, Nat.shiftRight_eq_div_pow]

theorem encodeLength_eq_pack (n : Len) :
    encodeLength n = pack ((List.range 64).map fun j => n.getLsbD (63 - j)) := by
  refine List.ext_getElem (by simp) fun k hk _ => byte_ext fun j hj => ?_
  rw [length_encodeLength] at hk
  have hin : 8 * k + j < 64 := by omega
  have hbit : 8 * (7 - k) + (7 - j) = 63 - (8 * k + j) := by omega
  rw [getElem_pack, getLsbD_packByte _ _ hj, getElem_encodeLength, BitVec.getLsbD_setWidth,
    BitVec.getLsbD_ushiftRight, hbit]
  simp [hin, show 7 - j < 8 by omega]

theorem decodeLength_take (e : List Byte) : decodeLength (e.take 8) = decodeLength e := by
  have hdigit : ∀ k ∈ List.range 8, (e.take 8).getD k 0#8 = e.getD k 0#8 := fun k hk => by
    simp [List.mem_range.1 hk]
  unfold decodeLength
  rw [List.map_congr_left fun k hk => by rw [hdigit k hk]]

/-- The sum of R73 stays below 2^64, so `decodeLength` loses nothing of it. -/
theorem toNat_decodeLength (e : List Byte) :
    (decodeLength e).toNat = ∑ k ∈ Finset.range 8, (e.getD k 0#8).toNat * 2 ^ (8 * (7 - k)) := by
  have hsum : ((List.range 8).map fun k => (e.getD k 0#8).toNat <<< (8 * (7 - k))).sum =
      ∑ k ∈ Finset.range 8, (e.getD k 0#8).toNat * 2 ^ (8 * (7 - k)) := by
    simp only [Nat.shiftLeft_eq]
    rfl
  have hbyte (k : Nat) : (e.getD k 0#8).toNat < 256 := (e.getD k 0#8).isLt
  rw [decodeLength, hsum, BitVec.toNat_ofNat]
  apply Nat.mod_eq_of_lt
  calc ∑ k ∈ Finset.range 8, (e.getD k 0#8).toNat * 2 ^ (8 * (7 - k))
      ≤ ∑ k ∈ Finset.range 8, 255 * 2 ^ (8 * (7 - k)) :=
        Finset.sum_le_sum fun k _ => Nat.mul_le_mul_right _ (Nat.le_of_lt_succ (hbyte k))
    _ < 2 ^ 64 := by decide

/-! ### The commands -/

section Commands

variable {s : State} (hs : s.err = 0#8)
include hs

theorem exec_flatten_of_fits (h : fits s.caps.bbuf (8 * (unreadOf s).length)) :
    exec .flatten s = .next { s with bbuf := flatten (unreadOf s), ipos := s.ibuf.length } := by
  refine issue_ok (op := opFlatten) (.inl hs) ?_
  rw [← length_flatten] at h
  rw [opFlatten, State.unread_eq, ← unreadOf, writeBbuf_of_fits h]
  rfl

theorem exec_flatten_of_not_fits (h : ¬ fits s.caps.bbuf (8 * (unreadOf s).length)) :
    exec .flatten s = .next (faulted s 7#8 0x1000#16) := by
  refine issue_faulted (op := opFlatten) (cause := .capacity) hs ?_
  rw [← length_flatten] at h
  rw [opFlatten, State.unread_eq, ← unreadOf, writeBbuf_of_not_fits h]
  rfl

theorem exec_pack_of_fits (h : fits s.caps.obuf ((s.bbuf.length + 7) / 8)) :
    exec .pack s = .next { s with obuf := pack s.bbuf } :=
  issue_ok (op := opPack) (.inl hs) (writeObuf_of_fits (by rwa [length_pack]))

theorem exec_pack_of_not_fits (h : ¬ fits s.caps.obuf ((s.bbuf.length + 7) / 8)) :
    exec .pack s = .next (faulted s 7#8 0x1100#16) :=
  issue_faulted (op := opPack) hs (writeObuf_of_not_fits (by rwa [length_pack]))

theorem exec_enclen_of_fits (h : fits s.caps.obuf 8) :
    exec .enclen s = .next { s with obuf := encodeLength s.len } :=
  issue_ok (op := opEnclen) (.inl hs) (writeObuf_of_fits (by rwa [length_encodeLength]))

theorem exec_enclen_of_not_fits (h : ¬ fits s.caps.obuf 8) :
    exec .enclen s = .next (faulted s 7#8 0x1200#16) :=
  issue_faulted (op := opEnclen) hs (writeObuf_of_not_fits (by rwa [length_encodeLength]))

theorem exec_declen_of_le (h : 8 ≤ (unreadOf s).length) :
    exec .declen s = .next { s with len := decodeLength (unreadOf s), ipos := s.ipos + 8 } := by
  refine issue_ok (op := opDeclen) (.inl hs) ?_
  rw [opDeclen, State.unread_eq, ← unreadOf, decodeLength_take, decide_eq_true h]
  rfl

theorem exec_declen_of_lt (h : (unreadOf s).length < 8) :
    exec .declen s = .next (faulted s 6#8 0x1300#16) := by
  refine issue_faulted (op := opDeclen) (cause := .precondition) hs ?_
  rw [opDeclen, State.unread_eq, ← unreadOf, decide_eq_false (by omega)]
  rfl

end Commands

/-! ### The obligations -/

/-- Settles O21: FLATTEN writes `flatten` of the unread bytes, whose bit `8*i + j` is bit `7-j` of byte
`i`. -/
theorem flattenExpandsTheUnreadBytes : Obligations.FlattenExpandsTheUnreadBytes := fun s hs =>
  ⟨exec_flatten_of_fits hs, exec_flatten_of_not_fits hs, length_flatten _,
    fun i _ _ hj => getD_flatten (unreadOf s) i hj⟩

/-- Settles O22: PACK writes `pack` of BBUF, whose bits are those of BBUF and 1-bits past its end. -/
theorem packGroupsTheBits : Obligations.PackGroupsTheBits := fun s hs =>
  ⟨exec_pack_of_fits hs, exec_pack_of_not_fits hs, length_pack _,
    fun _ _ hi hj => getLsbD_getD_pack s.bbuf hi hj⟩

/-- Settles O23: ENCLEN writes `encodeLength` of LEN, which byte by byte is `pack` of its bits. -/
theorem enclenWritesTheEightBytes : Obligations.EnclenWritesTheEightBytes := fun s hs =>
  ⟨exec_enclen_of_fits hs, exec_enclen_of_not_fits hs, length_encodeLength _,
    fun _ hk => toNat_getD_encodeLength s.len hk, encodeLength_eq_pack s.len⟩

/-- Settles O24: DECLEN takes the sum of the first 8 unread bytes, which is below 2^64. -/
theorem declenReadsTheEightBytes : Obligations.DeclenReadsTheEightBytes := fun s hs =>
  ⟨fun h => ⟨decodeLength (unreadOf s), toNat_decodeLength _, exec_declen_of_le hs h⟩,
    exec_declen_of_lt hs⟩

end Sys2Proof.BitConverter

/-! One command seen from its operation: what each operation that can fail commits, and what executing a
command leaves (spec/30_encoding.md rule R63, spec/60_exceptions.md rule R159). -/

namespace Sys2Proof.Effects

open Sys2Proof.Machine Sys2Proof.Certificates

/-- The operation `exec` issues for each command (`exec_eq_issue`). -/
def operation : Instr → State → Except FaultCause State
  | .nop => opNop
  | .iclr => opIclr
  | .ipush imm8 => opIpush imm8
  | .bclr => opBclr
  | .bpush imm1 => opBpush imm1
  | .eclr => opEclr
  | .srst => opSrst
  | .flatten => opFlatten
  | .pack => opPack
  | .enclen => opEnclen
  | .declen => opDeclen
  | .fnew => opFnew
  | .feed imm8 => opFeed imm8
  | .finalize => opFinalize
  | .build => opBuild
  | .gentable => opGentable
  | .serialize => opSerialize
  | .deserialize => opDeserialize
  | .encode => opEncode
  | .compress => opCompress
  | .assemble => opAssemble
  | .decode => opDecode
  | .decompress => opDecompress

theorem exec_eq_issue (i : Instr) (s : State) : exec i s = issue i (operation i) s := by
  cases i <;> rfl

/-- Everything executing a command can leave: the state as it was, what its operation commits, or a fault. -/
theorem exec_cases {i : Instr} {s t : State} (h : exec i s = .next t) :
    t = s ∨ operation i s = .ok t ∨ ∃ cause, t = faulted s (FaultCause.code cause) (encode i) := by
  rw [exec_eq_issue] at h
  obtain ⟨-, -, hdiscarded⟩ | ⟨-, hok⟩ | ⟨-, cause, -, hfault⟩ := issue_cases h
  · exact .inl hdiscarded
  · exact .inr (.inl hok)
  · exact .inr (.inr ⟨cause, hfault⟩)

/-! ### What an operation commits -/

theorem require_ok {c : Bool} {cause : FaultCause} {u : Unit} :
    require c cause = .ok u ↔ c = true := by
  cases c <;> simp

theorem pure_ok {α : Type} {x y : α} : (pure x : Except FaultCause α) = .ok y ↔ y = x :=
  Except.ok.injEq x y ▸ eq_comm

variable {s t : State}

theorem writeObuf_ok {bytes : List Byte} :
    s.writeObuf bytes = .ok t ↔ s.obufAdmits bytes.length = true ∧ t = s.putObuf bytes := by
  rw [State.writeObuf, require_bind_ok, pure_ok]

theorem writeBbuf_ok {bits : List Bit} :
    s.writeBbuf bits = .ok t ↔ s.bbufAdmits bits.length = true ∧ t = s.putBbuf bits := by
  rw [State.writeBbuf, require_bind_ok, pure_ok]

theorem opIpush_ok {b : Byte} : opIpush b s = .ok t ↔
    s.ibufAdmits (s.ilen + 1) = true ∧ t = s.putInput (memAppend s.ibuf b) s.ipos := by
  rw [opIpush, require_bind_ok, pure_ok]

theorem opBpush_ok {b : Bit} : opBpush b s = .ok t ↔
    s.bbufAdmits (s.blen + 1) = true ∧ t = s.putBbuf (memAppend s.bbuf b) := by
  rw [opBpush, require_bind_ok, pure_ok]

theorem opFlatten_ok : opFlatten s = .ok t ↔
    s.bbufAdmits (flatten s.unread).length = true ∧ t = (s.putBbuf (flatten s.unread)).consumeAll := by
  rw [opFlatten, bind_ok]
  simp only [writeBbuf_ok, pure_ok, and_assoc, exists_and_left, exists_eq_left]

theorem opDeclen_ok : opDeclen s = .ok t ↔
    8 ≤ s.unread.length ∧ t = (s.putLen (decodeLength (s.unread.take 8))).advance 8 := by
  rw [opDeclen, require_bind_ok, pure_ok, decide_eq_true_iff]

theorem opFeed_ok {b : Byte} : opFeed b s = .ok t ↔
    s.fcOpen = true ∧ (fileGet s.freq b).toNat < Config.max64 ∧
      t = s.putFreq (fileSet s.freq b (fileGet s.freq b + 1#64)) := by
  rw [opFeed, require_bind_ok, require_bind_ok, pure_ok, decide_eq_true_iff]

theorem opFinalize_ok : opFinalize s = .ok t ↔ s.fcOpen = true ∧ t = s.setFcOpen false := by
  rw [opFinalize, require_bind_ok, pure_ok]

theorem opGentable_ok : opGentable s = .ok t ↔
    s.treeValid = true ∧ t = (s.putCt (tableOf s.nodes s.root)).markTable := by
  rw [opGentable, require_bind_ok, pure_ok]

theorem opBuild_ok : opBuild s = .ok t ↔ s.fcOpen = false ∧
    t = (s.putTree (buildTree s.freq).1 (buildTree s.freq).2).markTree := by
  rw [opBuild, require_bind_ok, pure_ok, Bool.not_eq_true']

theorem opSerialize_ok : opSerialize s = .ok t ↔ s.ctValid = true ∧
    s.obufAdmits (serialize s.ct).length = true ∧ t = s.putObuf (serialize s.ct) := by
  rw [opSerialize, require_bind_ok, writeObuf_ok]

theorem opDeserialize_ok : opDeserialize s = .ok t ↔ ∃ parsed, deserialize s.unread = .ok parsed ∧
    t = ((s.putCt parsed.1).markTable).advance parsed.2 := by
  simp only [opDeserialize, bind_ok, pure_ok]

theorem opEncode_ok : opEncode s = .ok t ↔ s.ctValid = true ∧ allEncodable s.ct s.unread = true ∧
    s.bbufAdmits (encodeBytes s.ct s.unread).length = true ∧
    t = (s.putBbuf (encodeBytes s.ct s.unread)).consumeAll := by
  rw [opEncode, require_bind_ok, require_bind_ok, bind_ok]
  simp only [writeBbuf_ok, pure_ok, and_assoc, exists_and_left, exists_eq_left]

theorem opAssemble_ok : opAssemble s = .ok t ↔ s.treeValid = true ∧
    ((s.putCt (tableOf s.nodes s.root)).markTable).obufAdmits
      (containerOf s.len (tableOf s.nodes s.root) s.obuf).length = true ∧
    t = ((s.putCt (tableOf s.nodes s.root)).markTable).putObuf
      (containerOf s.len (tableOf s.nodes s.root) s.obuf) := by
  rw [opAssemble, require_bind_ok, writeObuf_ok]

theorem opDecode_ok : opDecode s = .ok t ↔ s.ctValid = true ∧ s.obufAdmits s.len.toNat = true ∧
    ∃ out, decodeBits s.ct s.len.toNat s.bbuf = .ok out ∧ t = s.putObuf out := by
  rw [opDecode, require_bind_ok, require_bind_ok, bind_ok]
  simp only [pure_ok]

theorem opDecompress_ok : opDecompress s = .ok t ↔ ∃ len parsed bits out,
    8 ≤ s.unread.length ∧ len = decodeLength (s.unread.take 8) ∧
    deserialize (s.unread.drop 8) = .ok parsed ∧ bits = flatten (s.unread.drop (8 + parsed.2)) ∧
    s.bbufAdmits bits.length = true ∧ s.obufAdmits len.toNat = true ∧
    decodeBits parsed.1 len.toNat bits = .ok out ∧
    t = (((((s.putBbuf bits).putLen len).putCt parsed.1).markTable).putObuf out).consumeAll := by
  rw [opDecompress, require_bind_ok, decide_eq_true_iff]
  simp only [bind_ok, require_ok, writeBbuf_ok, pure_ok, and_assoc, exists_and_left, exists_eq_left,
    exists_const]

end Sys2Proof.Effects

/-! The frequency counter: what FNEW, FEED and FINALIZE leave, and the commands that leave FREQ alone while the
counter is closed (spec/41_frequency_counter.md rules R80 to R82). -/

namespace Sys2Proof.FrequencyCounter

open Sys2Proof.Machine Sys2Proof.Certificates Sys2Proof.Effects

/-! ### Closed counts are frozen -/

/-- While the counter is closed, FEED has no effect to commit, and of the other operations only FNEW, COMPRESS
and SRST write FREQ (R82). -/
theorem freq_of_operation_of_closed {i : Instr} {s t : State} (hclosed : s.fcOpen = false)
    (h : operation i s = .ok t) (hi : i ∉ [Instr.fnew, .compress, .srst]) : t.freq = s.freq := by
  cases i with
  | fnew | compress | srst => simp at hi
  | feed imm8 =>
    obtain ⟨hopen, -⟩ := opFeed_ok.1 h
    rw [hclosed] at hopen
    contradiction
  | nop | iclr | bclr | eclr =>
    obtain rfl := pure_ok.1 h
    rfl
  | ipush imm8 => obtain ⟨-, rfl⟩ := opIpush_ok.1 h; rfl
  | bpush imm1 => obtain ⟨-, rfl⟩ := opBpush_ok.1 h; rfl
  | flatten => obtain ⟨-, rfl⟩ := opFlatten_ok.1 h; rfl
  | pack => obtain ⟨-, rfl⟩ := writeObuf_ok.1 h; rfl
  | enclen => obtain ⟨-, rfl⟩ := writeObuf_ok.1 h; rfl
  | declen => obtain ⟨-, rfl⟩ := opDeclen_ok.1 h; rfl
  | finalize => obtain ⟨-, rfl⟩ := opFinalize_ok.1 h; rfl
  | build => obtain ⟨-, rfl⟩ := opBuild_ok.1 h; rfl
  | gentable => obtain ⟨-, rfl⟩ := opGentable_ok.1 h; rfl
  | serialize => obtain ⟨-, -, rfl⟩ := opSerialize_ok.1 h; rfl
  | deserialize => obtain ⟨_, -, rfl⟩ := opDeserialize_ok.1 h; rfl
  | encode => obtain ⟨-, -, -, rfl⟩ := opEncode_ok.1 h; rfl
  | assemble => obtain ⟨-, -, rfl⟩ := opAssemble_ok.1 h; rfl
  | decode => obtain ⟨-, -, _, -, rfl⟩ := opDecode_ok.1 h; rfl
  | decompress => obtain ⟨_, _, _, _, -, -, -, -, -, -, -, rfl⟩ := opDecompress_ok.1 h; rfl

/-- A closed counter is changed by FNEW, COMPRESS and SRST alone (R82, R146). -/
theorem freq_of_exec_of_closed {i : Instr} {s t : State} (hclosed : s.fcOpen = false)
    (h : exec i s = .next t) (hi : i ∉ [Instr.fnew, .compress, .srst]) : t.freq = s.freq := by
  obtain rfl | hok | ⟨cause, rfl⟩ := exec_cases h
  · rfl
  · exact freq_of_operation_of_closed hclosed hok hi
  · rfl

/-! ### The commands -/

theorem fileGet_zeroFreq (b : Byte) : fileGet zeroFreq b = 0#64 := fileGet_replicate 0#64 b

/-- A count below the maximum does not wrap when one is added. -/
theorem toNat_add_one_of_lt {n : Count} (h : n.toNat < 2 ^ 64 - 1) : (n + 1#64).toNat = n.toNat + 1 :=
  BitVec.toNat_add_of_lt (show n.toNat + 1 < 2 ^ 64 by omega)

section Commands

variable {s : State} (hs : s.err = 0#8)
include hs

theorem exec_fnew : exec .fnew s = .next { s with freq := zeroFreq, fcOpen := true } :=
  issue_ok (op := opFnew) (.inl hs) rfl

theorem exec_finalize_of_open (hopen : s.fcOpen = true) :
    exec .finalize s = .next { s with fcOpen := false } :=
  issue_ok (op := opFinalize) (.inl hs) (opFinalize_ok.2 ⟨hopen, rfl⟩)

theorem exec_finalize_of_closed (hclosed : s.fcOpen = false) :
    exec .finalize s = .next (faulted s 6#8 0x2200#16) := by
  refine issue_faulted (op := opFinalize) (cause := .precondition) hs ?_
  rw [opFinalize, hclosed]
  rfl

theorem exec_feed_of_lt {b : Byte} (hopen : s.fcOpen = true)
    (hlt : (fileGet s.freq b).toNat < 2 ^ 64 - 1) :
    exec (.feed b) s = .next { s with freq := fileSet s.freq b (fileGet s.freq b + 1#64) } :=
  issue_ok (op := opFeed b) (.inl hs) (opFeed_ok.2 ⟨hopen, hlt, rfl⟩)

theorem exec_feed_of_closed {b : Byte} (hclosed : s.fcOpen = false) :
    exec (.feed b) s = .next (faulted s 6#8 (0x21#8 ++ b)) := by
  refine issue_faulted (i := .feed b) (op := opFeed b) (cause := .precondition) hs ?_
  rw [opFeed, hclosed]
  rfl

theorem exec_feed_of_full {b : Byte} (hopen : s.fcOpen = true)
    (hfull : (fileGet s.freq b).toNat = 2 ^ 64 - 1) :
    exec (.feed b) s = .next (faulted s 7#8 (0x21#8 ++ b)) := by
  refine issue_faulted (i := .feed b) (op := opFeed b) (cause := .capacity) hs ?_
  rw [opFeed, hopen, hfull]
  rfl

end Commands

/-! ### The obligations -/

/-- Settles O26: FNEW and FINALIZE by their executions, the frozen counts by what every operation commits. -/
theorem fnewAndFinalizeResults : Obligations.FnewAndFinalizeResults := fun _ hs =>
  ⟨⟨zeroFreq, fileGet_zeroFreq, exec_fnew hs⟩, exec_finalize_of_open hs, exec_finalize_of_closed hs,
    fun _ _ hclosed h hi => freq_of_exec_of_closed hclosed h hi⟩

/-- Settles O27: the count written is the old one plus one, which does not wrap, and FEED writes no other. -/
theorem feedCountsItsByte : Obligations.FeedCountsItsByte := fun s b hs => by
  refine ⟨fun hopen hlt => ⟨fileSet s.freq b (fileGet s.freq b + 1#64), ?_, fun c hc => ?_,
    exec_feed_of_lt hs hopen hlt⟩, exec_feed_of_closed hs, exec_feed_of_full hs⟩
  · rw [fileGet_fileSet_self, toNat_add_one_of_lt hlt]
  · rw [fileGet_fileSet, if_neg hc]

end Sys2Proof.FrequencyCounter

/-! The tree builder: the order `before` and the lists sorted by it, the merges of the work list, and BUILD
(spec/42_tree_builder.md rules R90 to R93). -/

namespace Sys2Proof.TreeBuilder

open Sys2Proof.Machine Sys2Proof.Certificates Sys2Proof.Effects

/-! ### The order of R92 -/

section Order

variable {a : Arena} {i j k : NodeId} {lst lst' : List NodeId}

theorem before_iff : before a i j = true ↔ (nodeGet a j).weight.toNat < (nodeGet a i).weight.toNat ∨
    ((nodeGet a i).weight.toNat = (nodeGet a j).weight.toNat ∧ i.val < j.val) := by
  simp only [before, Bool.or_eq_true, Bool.and_eq_true, decide_eq_true_eq, BitVec.lt_def,
    BitVec.toNat_eq, Fin.lt_def]

theorem before_irrefl (a : Arena) (i : NodeId) : before a i i = false := by
  rw [← Bool.not_eq_true, before_iff]
  omega

theorem before_total (h : i ≠ j) : before a i j = true ∨ before a j i = true := by
  have hval : i.val ≠ j.val := Fin.val_ne_of_ne h
  rw [before_iff, before_iff]
  omega

theorem before_trans (hij : before a i j = true) (hjk : before a j k = true) : before a i k = true := by
  rw [before_iff] at *
  omega

theorem before_asymm (hij : before a i j = true) : ¬ before a j i = true := fun hji => by
  simpa [before_irrefl] using before_trans hij hji

/-! ### Sorted lists -/

theorem sortedNodes_iff : SortedNodes a lst ↔ lst.Pairwise (before a · · = true) := by
  simp only [SortedNodes, before_iff]

theorem nodup_of_sortedNodes (h : SortedNodes a lst) : lst.Nodup :=
  (sortedNodes_iff.1 h).imp fun hij heq => by simp [heq, before_irrefl] at hij

/-- A list has one sorted arrangement at most (R92). -/
theorem eq_of_sortedNodes_of_perm (h : SortedNodes a lst) (h' : SortedNodes a lst') (hperm : lst.Perm lst') :
    lst = lst' :=
  hperm.eq_of_pairwise (fun _ _ _ _ hij hji => absurd hji (before_asymm hij)) (sortedNodes_iff.1 h)
    (sortedNodes_iff.1 h')

theorem insertNode_perm (a : Arena) (i : NodeId) (lst : List NodeId) :
    (insertNode a i lst).Perm (i :: lst) := by
  induction lst with
  | nil => exact .refl _
  | cons j rest ih =>
    rw [insertNode]
    split
    · exact .refl _
    · exact (ih.cons j).trans (.swap i j rest)

theorem sortNodes_perm (a : Arena) (lst : List NodeId) : (sortNodes a lst).Perm lst := by
  induction lst with
  | nil => exact .refl _
  | cons i rest ih => exact (insertNode_perm a i _).trans (ih.cons i)

theorem mem_sortNodes : i ∈ sortNodes a lst ↔ i ∈ lst := (sortNodes_perm a lst).mem_iff

theorem sortedNodes_insertNode (hi : i ∉ lst) (h : SortedNodes a lst) :
    SortedNodes a (insertNode a i lst) := by
  rw [sortedNodes_iff] at *
  induction lst with
  | nil => exact List.pairwise_singleton _ _
  | cons j rest ih =>
    obtain ⟨hij, hirest⟩ := List.ne_and_not_mem_of_not_mem_cons hi
    obtain ⟨hj, hrest⟩ := List.pairwise_cons.1 h
    rw [insertNode]
    split
    case isTrue hbefore =>
      refine List.pairwise_cons.2 ⟨fun k hk => ?_, h⟩
      obtain rfl | hk := List.mem_cons.1 hk
      · exact hbefore
      · exact before_trans hbefore (hj k hk)
    case isFalse hbefore =>
      refine List.pairwise_cons.2 ⟨fun k hk => ?_, ih hirest hrest⟩
      obtain rfl | hk := List.mem_cons.1 ((insertNode_perm a i rest).mem_iff.1 hk)
      · exact (before_total hij).resolve_left hbefore
      · exact hj k hk

theorem sortedNodes_sortNodes (h : lst.Nodup) : SortedNodes a (sortNodes a lst) := by
  induction lst with
  | nil => exact .nil
  | cons i rest ih =>
    obtain ⟨hi, hrest⟩ := List.nodup_cons.1 h
    exact sortedNodes_insertNode (mem_sortNodes.not.2 hi) (ih hrest)

end Order

/-! ### The merges (R93) -/

/-- The new node of a merge: its weight is the sum of its children's (R93). -/
def mergedNode (a : Arena) (l r : NodeId) : Node :=
  .internal ((nodeGet a l).weight + (nodeGet a r).weight) l r

theorem mergeOnce_append (a : Arena) (front : List NodeId) (l r next : NodeId) :
    mergeOnce a (front ++ [l, r]) next = (nodeSet a next (mergedNode a l r),
      sortNodes (nodeSet a next (mergedNode a l r)) (front ++ [next])) := by
  simp [mergeOnce, mergedNode]

/-- A list of two or more ends in the two nodes a merge takes. -/
theorem exists_eq_append_pair {lst : List NodeId} (h : 1 < lst.length) :
    ∃ front l r, lst = front ++ [l, r] := by
  obtain rfl | ⟨init, r, rfl⟩ := lst.eq_nil_or_concat'
  · simp at h
  · obtain rfl | ⟨front, l, rfl⟩ := init.eq_nil_or_concat'
    · simp at h
    · exact ⟨front, l, r, by simp⟩

/-- A work list the merges can run on: sorted, not empty, its ids below the next id, and the arena long enough
for the nodes still to be made, one for each member but one. -/
structure WorkList (a : Arena) (lst : List NodeId) (next : Nat) : Prop where
  sorted : SortedNodes a lst
  nonempty : lst ≠ []
  below : ∀ i ∈ lst, i.val < next
  room : next + lst.length ≤ 512

/-- What a merge leaves is a work list again, whatever the arena has become. -/
theorem WorkList.merge {a : Arena} {front : List NodeId} {l r : NodeId} {next : Nat}
    (h : WorkList a (front ++ [l, r]) next) (hnext : next < 511) (b : Arena) :
    WorkList b (sortNodes b (front ++ [⟨next, hnext⟩])) (next + 1) := by
  have hfront : ∀ i ∈ front, i.val < next := fun i hi => h.below i (List.mem_append_left _ hi)
  have hnew : ⟨next, hnext⟩ ∉ front := fun hmem => lt_irrefl _ (hfront _ hmem)
  have hnodup : front.Nodup := (nodup_of_sortedNodes h.sorted).of_append_left
  have hroom := h.room
  have hlength := (sortNodes_perm b (front ++ [⟨next, hnext⟩])).length_eq
  simp only [List.length_append, List.length_cons, List.length_nil] at hroom hlength
  refine ⟨sortedNodes_sortNodes (List.nodup_append_comm.1 (hnodup.cons hnew)), ?_, fun i hi => ?_,
    by omega⟩
  · exact List.ne_nil_of_length_pos (by omega)
  · obtain hi | hi := List.mem_append.1 (mem_sortNodes.1 hi)
    · exact (hfront i hi).trans (Nat.lt_succ_self _)
    · obtain rfl := List.mem_singleton.1 hi
      exact Nat.lt_succ_self _

/-- A work list that no merge is due on is its root alone. -/
theorem WorkList.merges_of_length_le_one {a : Arena} {lst : List NodeId} {next : Nat}
    (h : WorkList a lst next) (hone : lst.length ≤ 1) : Merges a lst next a (lst.headD 0) := by
  obtain ⟨root, rfl⟩ := List.length_eq_one_iff.1 (hone.antisymm (List.length_pos_iff.2 h.nonempty))
  exact .done a root next

/-- The loop of R90 step 4 makes the merges of the relation, given one unit of fuel for each merge. -/
theorem WorkList.merges_mergeAll {fuel : Nat} {a : Arena} {lst : List NodeId} {next : Nat}
    (h : WorkList a lst next) (hfuel : lst.length ≤ fuel + 1) :
    Merges a lst next (mergeAll fuel a lst next).1 ((mergeAll fuel a lst next).2.headD 0) := by
  induction fuel generalizing a lst next with
  | zero => exact h.merges_of_length_le_one hfuel
  | succ fuel ih =>
    rw [mergeAll]
    split
    case isTrue hone => exact h.merges_of_length_le_one hone
    case isFalse hmany =>
      obtain ⟨front, l, r, rfl⟩ := exists_eq_append_pair (not_le.1 hmany)
      have hroom := h.room
      simp only [List.length_append, List.length_cons, List.length_nil] at hroom hfuel
      have hnext : next < 511 := by omega
      have hid : Fin.ofNat Config.nodeN next = ⟨next, hnext⟩ := Fin.ext (Nat.mod_eq_of_lt hnext)
      have hperm := sortNodes_perm (nodeSet a ⟨next, hnext⟩ (mergedNode a l r))
        (front ++ [⟨next, hnext⟩])
      have hmerged := h.merge hnext (nodeSet a ⟨next, hnext⟩ (mergedNode a l r))
      rw [hid, mergeOnce_append]
      refine .merge a _ front _ l r _ next hnext h.sorted hmerged.sorted hperm (ih hmerged ?_)
      rw [hperm.length_eq, List.length_append, List.length_singleton]
      omega

/-! ### The forest before the merges (R90 steps 1 and 3, R91) -/

section Forest

variable {f : FreqFile} {i : NodeId}

@[simp] theorem nodeGet_leafArena (f : FreqFile) (i : NodeId) : nodeGet (leafArena f) i = leafAt f i := by
  simp only [leafArena, nodeGet_tabulate, leafAt, BitVec.ofNat_toNat]

/-- The nodes step 1 makes are those of the bytes with a nonzero count. -/
theorem leafAt_ne_unused_iff : leafAt f i ≠ .unused ↔ ∃ h : i.val < 256, f[i.val] ≠ 0#64 := by
  rw [leafAt]
  split
  case isTrue hi => simp [hi]
  case isFalse hi => simp [hi]

/-- A byte value is the id of its leaf (R21). -/
theorem val_ofNat_of_lt {k : Nat} (hk : k < 256) : (Fin.ofNat Config.nodeN k).val = k :=
  Nat.mod_eq_of_lt (hk.trans (by decide))

theorem mem_leafIds : i ∈ leafIds f ↔ leafAt f i ≠ .unused := by
  simp only [leafIds, List.mem_filterMap, Prod.exists, List.mk_mem_zipIdx_iff_getElem?,
    leafAt_ne_unused_iff, List.getElem?_eq_some_iff, Vector.length_toList, Vector.getElem_toList,
    Option.ite_none_left_eq_some, Option.some.injEq]
  constructor
  · rintro ⟨_, k, ⟨hk, rfl⟩, hne, rfl⟩
    rw [val_ofNat_of_lt hk]
    exact ⟨hk, hne⟩
  · rintro ⟨hi, hne⟩
    exact ⟨_, i.val, ⟨hi, rfl⟩, hne, Fin.ext (val_ofNat_of_lt hi)⟩

theorem leafIds_eq_nil_iff : leafIds f = [] ↔ ∀ c, fileGet f c = 0#64 := by
  simp only [List.eq_nil_iff_forall_not_mem, mem_leafIds, leafAt_ne_unused_iff, not_exists, not_not]
  constructor
  · exact fun h c => h ⟨c.toNat, c.isLt.trans (by decide)⟩ c.isLt
  · intro h i hi
    have := h (BitVec.ofNat 8 i.val)
    simpa [fileGet, Nat.mod_eq_of_lt hi] using this

theorem length_leafIds_le (f : FreqFile) : (leafIds f).length ≤ 256 := by
  refine (List.length_filterMap_le _ _).trans ?_
  simp

theorem nodup_leafIds (f : FreqFile) : (leafIds f).Nodup := by
  rw [List.Nodup, leafIds, List.pairwise_filterMap, List.pairwise_iff_getElem]
  intro j k hj hk hjk i hi i' hi' heq
  simp only [List.getElem_zipIdx, List.length_zipIdx, Vector.length_toList, zero_add,
    Option.ite_none_left_eq_some, Option.some.injEq] at hj hk hi hi'
  have hval := congrArg Fin.val (hi.2.trans (heq.trans hi'.2.symm))
  rw [val_ofNat_of_lt hj, val_ofNat_of_lt hk] at hval
  exact hjk.ne hval

end Forest

/-! ### BUILD -/

theorem initialForest_of_nil {f : FreqFile} (h : leafIds f = []) :
    initialForest f = (nodeSet (leafArena f) 256 .placeholder, [256], 257) := by
  rw [initialForest, h]

theorem initialForest_of_ne_nil {f : FreqFile} (h : leafIds f ≠ []) :
    initialForest f = (leafArena f, leafIds f, 256) := by
  rw [initialForest]
  split
  case h_1 hnil => exact absurd hnil h
  case h_2 => rfl

/-- The arena under no counts: the placeholder of R91 alone. -/
theorem nodeGet_placeholderArena {f : FreqFile} (h : leafIds f = []) (i : NodeId) :
    nodeGet (nodeSet (leafArena f) 256 .placeholder) i = if i = 256 then .placeholder else .unused := by
  have hunused : leafAt f i = .unused := by
    simpa [h] using (mem_leafIds (f := f) (i := i)).not
  rw [nodeGet_nodeSet, nodeGet_leafArena, hunused]

/-- The model's work list before the merges is one they can run on. -/
theorem workList_initialForest (f : FreqFile) :
    WorkList (initialForest f).1 (sortNodes (initialForest f).1 (initialForest f).2.1)
      (initialForest f).2.2 := by
  by_cases h : leafIds f = []
  · rw [initialForest_of_nil h]
    refine ⟨List.pairwise_singleton _ _, List.cons_ne_nil _ _, fun i hi => ?_, ?_⟩
    · rw [List.mem_singleton.1 (mem_sortNodes.1 hi)]
      exact Nat.lt_succ_self 256
    · exact (by decide : 257 + 1 ≤ 512)
  · rw [initialForest_of_ne_nil h]
    have hperm := sortNodes_perm (leafArena f) (leafIds f)
    refine ⟨sortedNodes_sortNodes (nodup_leafIds f), fun hnil => h (hnil ▸ hperm).nil_eq.symm,
      fun i hi => ?_, ?_⟩
    · exact (leafAt_ne_unused_iff.1 (mem_leafIds.1 (mem_sortNodes.1 hi))).1
    · rw [hperm.length_eq]
      exact Nat.add_le_add_left (length_leafIds_le f) 256

/-- BUILD makes of FREQ what the relation does (R90, R93). -/
theorem buildRelates_buildTree (f : FreqFile) : BuildRelates f (buildTree f).1 (buildTree f).2 := by
  refine ⟨(initialForest f).1, _, _, ?_, (workList_initialForest f).sorted,
    (workList_initialForest f).merges_mergeAll (Nat.le_succ _)⟩
  by_cases h : leafIds f = []
  · rw [initialForest_of_nil h]
    exact .inl ⟨leafIds_eq_nil_iff.1 h, rfl, rfl, nodeGet_placeholderArena h⟩
  · rw [initialForest_of_ne_nil h]
    refine .inr ⟨not_forall.1 (leafIds_eq_nil_iff.not.1 h), rfl, nodeGet_leafArena f, fun i => ?_⟩
    rw [mem_sortNodes, mem_leafIds, nodeGet_leafArena]

section Commands

variable {s : State} (hs : s.err = 0#8)
include hs

theorem exec_build_of_closed (hclosed : s.fcOpen = false) : exec .build s =
    .next { s with nodes := (buildTree s.freq).1, root := (buildTree s.freq).2, treeValid := true } :=
  issue_ok (op := opBuild) (.inl hs) (opBuild_ok.2 ⟨hclosed, rfl⟩)

theorem exec_build_of_open (hopen : s.fcOpen = true) :
    exec .build s = .next (faulted s 6#8 0x3000#16) := by
  refine issue_faulted (op := opBuild) (cause := .precondition) hs ?_
  rw [opBuild, hopen]
  rfl

end Commands

/-! ### The obligations -/

/-- Settles O32: `before` compares weights, then ids; insertion keeps a list sorted by it, and two sorted
arrangements of one list are equal. -/
theorem beforeIsAStrictTotalOrder : Obligations.BeforeIsAStrictTotalOrder := fun a =>
  ⟨fun _ _ => before_iff, before_irrefl a, fun _ _ => before_total, fun _ _ _ => before_trans,
    fun lst hnodup => ⟨sortedNodes_sortNodes hnodup, fun _ hperm hsorted =>
      eq_of_sortedNodes_of_perm hsorted (sortedNodes_sortNodes hnodup)
        (hperm.trans (sortNodes_perm a lst).symm)⟩⟩

/-- Settles O29: the loop of the model runs the merges of the relation on a work list that the arena has room
for. -/
theorem buildMergesTheLightestNodes : Obligations.BuildMergesTheLightestNodes := fun s hs =>
  ⟨fun hclosed => ⟨(buildTree s.freq).1, (buildTree s.freq).2, buildRelates_buildTree s.freq, rfl,
    exec_build_of_closed hs hclosed⟩, exec_build_of_open hs⟩

end Sys2Proof.TreeBuilder

/-! The code table: GENTABLE, the records SERIALIZE writes, and the sources DESERIALIZE accepts
(spec/43_code_table.md rules R100 and R103 to R110). -/

namespace Sys2Proof.CodeTables

open Sys2Proof.Machine Sys2Proof.Certificates Sys2Proof.Effects

/-! ### The bytes of a code (R103) -/

@[simp] theorem codeBytes_nil : codeBytes [] = [] := rfl

@[simp] theorem codeBytes_cons (bit : Bit) (code : Code) :
    codeBytes (bit :: code) = byteOfBit bit :: codeBytes code := by
  cases bit <;> rfl

@[simp] theorem codeBytes_append (code code' : Code) :
    codeBytes (code ++ code') = codeBytes code ++ codeBytes code' := List.map_append

@[simp] theorem length_codeBytes (code : Code) : (codeBytes code).length = code.length := List.length_map _

theorem map_byteOfBit (code : Code) : code.map byteOfBit = codeBytes code := by
  induction code with
  | nil => rfl
  | cons bit code ih => rw [List.map_cons, ih, codeBytes_cons]

/-! ### The records of a list of entries (R104, R105) -/

section Records

variable {es : List (Byte × Code)} {e : Byte × Code}

theorem innerRecord_append (e : Byte × Code) (rest : List Byte) :
    innerRecord e ++ rest = e.1 :: (codeBytes e.2 ++ 0x02#8 :: rest) := by
  simp [innerRecord]

theorem lastRecord_append (e : Byte × Code) (rest : List Byte) :
    lastRecord e ++ rest = e.1 :: (codeBytes e.2 ++ 0x03#8 :: rest) := by
  simp [lastRecord]

@[simp] theorem length_innerRecord (e : Byte × Code) : (innerRecord e).length = e.2.length + 2 := by
  simp [innerRecord]

@[simp] theorem length_lastRecord (e : Byte × Code) : (lastRecord e).length = e.2.length + 2 := by
  simp [lastRecord]

@[simp] theorem serializeEntries_nil : serializeEntries [] = [0x03#8] := rfl

@[simp] theorem serializeEntries_singleton (e : Byte × Code) : serializeEntries [e] = lastRecord e := by
  rw [serializeEntries, record, map_byteOfBit, lastRecord, List.singleton_append]

theorem serializeEntries_cons (h : es ≠ []) :
    serializeEntries (e :: es) = innerRecord e ++ serializeEntries es := by
  obtain ⟨e', rest, rfl⟩ := List.exists_cons_of_ne_nil h
  rw [serializeEntries, record, map_byteOfBit, innerRecord, List.singleton_append]

theorem serializeEntries_append_singleton (front : List (Byte × Code)) (e : Byte × Code) :
    serializeEntries (front ++ [e]) = front.flatMap innerRecord ++ lastRecord e := by
  induction front with
  | nil => exact serializeEntries_singleton e
  | cons e' front ih =>
    rw [List.cons_append, serializeEntries_cons (by simp), ih, List.flatMap_cons, List.append_assoc]

theorem length_serializeEntries (h : es ≠ []) :
    (serializeEntries es).length = (es.map fun e => e.2.length + 2).sum := by
  obtain ⟨front, e, rfl⟩ := es.eq_nil_or_concat'.resolve_left h
  rw [serializeEntries_append_singleton]
  simp [List.length_flatMap]

theorem two_le_length_serializeEntries (h : es ≠ []) : 2 ≤ (serializeEntries es).length := by
  obtain ⟨e, rest, rfl⟩ := List.exists_cons_of_ne_nil h
  rw [length_serializeEntries h, List.map_cons, List.sum_cons]
  omega

theorem serializeEntries_ne_nil (h : es ≠ []) : serializeEntries es ≠ [] :=
  List.ne_nil_of_length_pos (Nat.zero_lt_two.trans_le (two_le_length_serializeEntries h))

/-- 256 records of a byte, at most 255 code bits and a separator (R104). -/
theorem length_serializeEntries_le (hlen : es.length ≤ 256) (hcodes : ∀ e ∈ es, e.2.length ≤ 255) :
    (serializeEntries es).length ≤ 65792 := by
  by_cases h : es = []
  · rw [h, serializeEntries_nil]
    decide
  · have hsum : (es.map fun e => e.2.length + 2).sum ≤ es.length * 257 := by
      refine (List.sum_le_card_nsmul _ 257 fun n hn => ?_).trans (by simp)
      obtain ⟨e, he, rfl⟩ := List.mem_map.1 hn
      exact Nat.add_le_add_right (hcodes e he) 2
    rw [length_serializeEntries h]
    omega

end Records

/-! ### The entries of a table (R104) -/

section Entries

variable {T : CodeTable}

theorem mem_entries {b : Byte} {code : Code} : (b, code) ∈ entries T ↔ fileGet T b = some code := by
  simp only [entries, List.mem_filterMap, Prod.exists, List.mk_mem_zipIdx_iff_getElem?,
    List.getElem?_eq_some_iff, Vector.length_toList, Vector.getElem_toList, Option.map_eq_some_iff,
    Prod.mk.injEq]
  constructor
  · rintro ⟨_, k, ⟨hk, rfl⟩, _, hcode, rfl, rfl⟩
    simpa [fileGet, Nat.mod_eq_of_lt hk] using hcode
  · exact fun h => ⟨_, b.toNat, ⟨b.isLt, rfl⟩, code, h, by simp, rfl⟩

theorem length_entries_le (T : CodeTable) : (entries T).length ≤ 256 :=
  (List.length_filterMap_le _ _).trans (by simp)

/-- The scan of R104 is ascending in byte value. -/
theorem pairwise_entries (T : CodeTable) : (entries T).Pairwise fun e e' => e.1 < e'.1 := by
  rw [entries, List.pairwise_filterMap, List.pairwise_iff_getElem]
  intro j k hj hk hjk e he e' he'
  simp only [List.getElem_zipIdx, zero_add, Option.map_eq_some_iff] at he he'
  simp only [List.length_zipIdx, Vector.length_toList] at hj hk
  obtain ⟨_, -, rfl⟩ := he
  obtain ⟨_, -, rfl⟩ := he'
  rwa [BitVec.lt_def, BitVec.toNat_ofNat, BitVec.toNat_ofNat, Nat.mod_eq_of_lt hj, Nat.mod_eq_of_lt hk]

theorem length_serialize_le (h : CodesFit T) : (serialize T).length ≤ 65792 :=
  length_serializeEntries_le (length_entries_le T) fun e he => h e.1 e.2 (mem_entries.1 he)

end Entries

/-! ### Parsing (R106 to R110) -/

section Parsing

variable {T : CodeTable} {sym : Byte} {code c : Code} {p q : Nat} {src rest : List Byte}
  {es : List (Byte × Code)}

/-- The table `T` with the records entered in turn, a later one replacing an earlier (R106, R108). -/
def enterRecords (T : CodeTable) (es : List (Byte × Code)) : CodeTable :=
  es.foldl (fun T e => fileSet T e.1 (some e.2)) T

theorem tableOfRecords_eq (es : List (Byte × Code)) : tableOfRecords es = enterRecords emptyTable es := rfl

@[simp] theorem enterRecords_cons (e : Byte × Code) :
    enterRecords T (e :: es) = enterRecords (fileSet T e.1 (some e.2)) es := rfl

/-- The grammar of R110 in one form: the records of a list of entries, and after the lone 0x03 of no entries
nothing more. -/
theorem parses_iff : Parses src T p ↔ ∃ es rest, (es ≠ [] ∨ rest = []) ∧
    (∀ e ∈ es, e.2.length ≤ 255) ∧ src = serializeEntries es ++ rest ∧
    p = (serializeEntries es).length ∧ T = tableOfRecords es := by
  constructor
  · rintro (⟨rfl, rfl, rfl⟩ | ⟨front, e, rest, hcodes, rfl, rfl, rfl⟩)
    · exact ⟨[], [], .inr rfl, by simp, rfl, rfl, rfl⟩
    · rw [← serializeEntries_append_singleton]
      exact ⟨front ++ [e], rest, .inl (by simp), hcodes, rfl, rfl, rfl⟩
  · rintro ⟨es, rest, hes, hcodes, rfl, rfl, rfl⟩
    obtain rfl | ⟨front, e, rfl⟩ := es.eq_nil_or_concat'
    · obtain rfl := hes.resolve_left (not_not.2 rfl)
      exact .inl ⟨rfl, rfl, rfl⟩
    · rw [serializeEntries_append_singleton]
      exact .inr ⟨front, e, rest, hcodes, rfl, rfl, rfl⟩

/-! #### The sources that are accepted -/

theorem parseRecords_bit (bit : Bit) (h : code.length < 255) :
    parseRecords T sym code p (byteOfBit bit :: src) = parseRecords T sym (code ++ [bit]) (p + 1) src := by
  rw [parseRecords.eq_def]
  cases bit <;> simp [byteOfBit, h]

theorem parseRecords_separator (sym' : Byte) :
    parseRecords T sym code p (0x02#8 :: sym' :: src) =
      parseRecords (fileSet T sym (some code)) sym' [] (p + 2) src := rfl

theorem parseRecords_terminator :
    parseRecords T sym code p (0x03#8 :: src) = .ok (fileSet T sym (some code), p + 1) := by
  rw [parseRecords.eq_def]
  rfl

theorem parseRecords_codeBytes (h : (code ++ c).length ≤ 255) :
    parseRecords T sym code p (codeBytes c ++ src) =
      parseRecords T sym (code ++ c) (p + c.length) src := by
  induction c generalizing code p with
  | nil => simp
  | cons bit c ih =>
    rw [List.append_cons] at h ⊢
    have hbit : code.length < 255 := by
      simp only [List.length_append, List.length_singleton] at h
      omega
    rw [codeBytes_cons, List.cons_append, parseRecords_bit bit hbit, ih h, List.length_cons, add_assoc,
      Nat.add_comm 1]

theorem parseRecords_lastRecord {e : Byte × Code} (h : e.2.length ≤ 255) :
    parseRecords T e.1 [] (p + 1) (codeBytes e.2 ++ 0x03#8 :: rest) =
      .ok (fileSet T e.1 (some e.2), p + (lastRecord e).length) := by
  have hend : p + 1 + e.2.length + 1 = p + (lastRecord e).length := by rw [length_lastRecord]; omega
  rw [parseRecords_codeBytes (code := []) h, parseRecords_terminator, hend, List.nil_append]

theorem parseRecords_innerRecord {e : Byte × Code} (h : e.2.length ≤ 255) (sym' : Byte) :
    parseRecords T e.1 [] (p + 1) (codeBytes e.2 ++ 0x02#8 :: sym' :: rest) =
      parseRecords (fileSet T e.1 (some e.2)) sym' [] (p + (innerRecord e).length + 1) rest := by
  have hend : p + 1 + e.2.length + 2 = p + (innerRecord e).length + 1 := by
    rw [length_innerRecord]; omega
  rw [parseRecords_codeBytes (code := []) h, parseRecords_separator, hend, List.nil_append]

/-- The parser, past the first byte of the records of some entries, enters them all and stops after them. -/
theorem parseRecords_serializeEntries (hes : es ≠ []) (hcodes : ∀ e ∈ es, e.2.length ≤ 255)
    (hsrc : serializeEntries es ++ rest = sym :: src) :
    parseRecords T sym [] (p + 1) src = .ok (enterRecords T es, p + (serializeEntries es).length) := by
  induction es generalizing T sym p src with
  | nil => exact absurd rfl hes
  | cons e es ih =>
    obtain ⟨he, hcodes⟩ := List.forall_mem_cons.1 hcodes
    by_cases hlast : es = []
    · subst hlast
      rw [serializeEntries_singleton] at hsrc ⊢
      rw [lastRecord_append] at hsrc
      obtain ⟨rfl, rfl⟩ := List.cons.inj hsrc
      exact parseRecords_lastRecord he
    · obtain ⟨sym', src', hnext⟩ := List.exists_cons_of_ne_nil
        (List.append_ne_nil_of_left_ne_nil (serializeEntries_ne_nil hlast) rest)
      rw [serializeEntries_cons hlast] at hsrc ⊢
      rw [List.append_assoc, innerRecord_append, hnext] at hsrc
      obtain ⟨rfl, rfl⟩ := List.cons.inj hsrc
      rw [parseRecords_innerRecord he, ih hlast hcodes hnext, enterRecords_cons, List.length_append,
        add_assoc]

theorem deserialize_of_ne (h : sym :: src ≠ [0x03#8]) :
    deserialize (sym :: src) = parseRecords emptyTable sym [] 1 src := by
  rw [deserialize, if_neg h]

theorem deserialize_of_parses (h : Parses src T p) : deserialize src = .ok (T, p) := by
  obtain ⟨es, rest, hrest, hcodes, rfl, rfl, rfl⟩ := parses_iff.1 h
  by_cases hes : es = []
  · obtain rfl := hrest.resolve_left (not_not.2 hes)
    subst hes
    rfl
  · obtain ⟨sym, src, hsrc⟩ := List.exists_cons_of_ne_nil
      (List.append_ne_nil_of_left_ne_nil (serializeEntries_ne_nil hes) rest)
    have hne : sym :: src ≠ [0x03#8] := fun hlone => by
      have htwo := two_le_length_serializeEntries hes
      have hone := congrArg List.length (hsrc.trans hlone)
      rw [List.length_append, List.length_singleton] at hone
      omega
    have hok := parseRecords_serializeEntries (T := emptyTable) (p := 0) hes hcodes hsrc
    rwa [zero_add, zero_add, ← tableOfRecords_eq, ← deserialize_of_ne hne, ← hsrc] at hok

/-! #### The other sources -/

/-- The parser inside the record of `sym`, past the first bits `code` of its code, refuses the source, or
reads the records of some entries and enters them; `p` counts the bytes before that record. -/
theorem parseRecords_cases (hcode : code.length ≤ 255) (hq : q = p + (code.length + 1)) :
    parseRecords T sym code q src = .error .malformedTable ∨
    ∃ es rest, es ≠ [] ∧ (∀ e ∈ es, e.2.length ≤ 255) ∧
      sym :: (codeBytes code ++ src) = serializeEntries es ++ rest ∧
      parseRecords T sym code q src = .ok (enterRecords T es, p + (serializeEntries es).length) := by
  fun_induction parseRecords T sym code q src generalizing p with
  | case1 | case3 | case4 | case7 => exact .inl rfl
  | case2 T sym code q c src hbit hlt ih =>
    have hbyte : byteOfBit (c == 0x01#8) = c := by obtain rfl | rfl := hbit <;> rfl
    have hnext := ih (p := p) (by rw [List.length_append]; exact hlt)
      (by rw [List.length_append, List.length_singleton]; omega)
    rwa [codeBytes_append, codeBytes_cons, codeBytes_nil, hbyte, List.append_assoc,
      List.singleton_append] at hnext
  | case5 T sym code q sym' src _ ih =>
    obtain herror | ⟨es, rest, hes, hcodes, hsrc, hok⟩ :=
      ih (p := p + (innerRecord (sym, code)).length) (Nat.zero_le _)
        (by simp only [length_innerRecord, List.length_nil]; omega)
    · exact .inl herror
    · refine .inr ⟨(sym, code) :: es, rest, List.cons_ne_nil _ _,
        List.forall_mem_cons.2 ⟨hcode, hcodes⟩, ?_, ?_⟩
      · rw [serializeEntries_cons hes, List.append_assoc, innerRecord_append, ← hsrc]
        rfl
      · rw [hok, serializeEntries_cons hes, enterRecords_cons, List.length_append, add_assoc]
  | case6 T sym code q src =>
    refine .inr ⟨[(sym, code)], src, List.cons_ne_nil _ _, by simpa using hcode, ?_, ?_⟩
    · rw [serializeEntries_singleton, lastRecord_append]
    · rw [serializeEntries_singleton, length_lastRecord, hq, add_assoc]
      rfl

theorem deserialize_cases (src : List Byte) : deserialize src = .error .malformedTable ∨
    ∃ T p, Parses src T p ∧ deserialize src = .ok (T, p) := by
  cases src with
  | nil => exact .inl rfl
  | cons sym src =>
    by_cases hlone : sym :: src = [0x03#8]
    · exact .inr ⟨emptyTable, 1, .inl ⟨hlone, rfl, rfl⟩, by rw [hlone]; rfl⟩
    · rw [deserialize_of_ne hlone]
      obtain herror | ⟨es, rest, hes, hcodes, hsrc, hok⟩ :=
        parseRecords_cases (T := emptyTable) (sym := sym) (code := []) (p := 0) (q := 1) (src := src)
          (Nat.zero_le _) rfl
      · exact .inl herror
      · rw [zero_add, ← tableOfRecords_eq] at hok
        exact .inr ⟨_, _, parses_iff.2 ⟨es, rest, .inl hes, hcodes, hsrc, rfl, rfl⟩, hok⟩

end Parsing

/-! ### The commands -/

section Commands

variable {s : State} (hs : s.err = 0#8)
include hs

theorem exec_gentable_of_tree (htree : s.treeValid = true) :
    exec .gentable s = .next { s with ct := tableOf s.nodes s.root, ctValid := true } :=
  issue_ok (op := opGentable) (.inl hs) (opGentable_ok.2 ⟨htree, rfl⟩)

theorem exec_gentable_of_no_tree (htree : s.treeValid = false) :
    exec .gentable s = .next (faulted s 6#8 0x3100#16) := by
  refine issue_faulted (op := opGentable) (cause := .precondition) hs ?_
  rw [opGentable, htree]
  rfl

theorem exec_serialize_of_no_table (htable : s.ctValid = false) :
    exec .serialize s = .next (faulted s 6#8 0x3200#16) := by
  refine issue_faulted (op := opSerialize) (cause := .precondition) hs ?_
  rw [opSerialize, htable]
  rfl

theorem exec_serialize_of_fits (htable : s.ctValid = true)
    (h : fits s.caps.obuf (serialize s.ct).length) :
    exec .serialize s = .next { s with obuf := serialize s.ct } :=
  issue_ok (op := opSerialize) (.inl hs)
    (opSerialize_ok.2 ⟨htable, (obufAdmits_iff_fits s _).2 h, rfl⟩)

theorem exec_serialize_of_not_fits (htable : s.ctValid = true)
    (h : ¬ fits s.caps.obuf (serialize s.ct).length) :
    exec .serialize s = .next (faulted s 7#8 0x3200#16) := by
  refine issue_faulted (op := opSerialize) (cause := .capacity) hs ?_
  rw [opSerialize, htable]
  exact writeObuf_of_not_fits h

theorem exec_deserialize_of_parses {T : CodeTable} {p : Nat} (h : Parses (unreadOf s) T p) :
    exec .deserialize s = .next { s with ct := T, ctValid := true, ipos := s.ipos + p } :=
  issue_ok (op := opDeserialize) (.inl hs) (opDeserialize_ok.2 ⟨_, deserialize_of_parses h, rfl⟩)

theorem exec_deserialize_of_malformed (h : ∀ T p, ¬ Parses (unreadOf s) T p) :
    exec .deserialize s = .next (faulted s 2#8 0x3300#16) := by
  refine issue_faulted (op := opDeserialize) (cause := .malformedTable) hs ?_
  obtain herror | ⟨T, p, hparses, -⟩ := deserialize_cases (unreadOf s)
  · rw [opDeserialize, State.unread_eq, ← unreadOf, herror]
    rfl
  · exact absurd hparses (h T p)

end Commands

/-! ### The obligations -/

/-- Settles O34: GENTABLE by its executions with a tree and without one. -/
theorem gentableDerivesTheTable : Obligations.GentableDerivesTheTable := fun _ hs =>
  ⟨exec_gentable_of_tree hs, exec_gentable_of_no_tree hs⟩

/-- Settles O38: what SERIALIZE writes are the records of `entries`, the scan of the table. -/
theorem serializeWritesTheRecords : Obligations.SerializeWritesTheRecords := fun s hs => by
  refine ⟨exec_serialize_of_no_table hs, fun htable => ⟨entries s.ct, serialize s.ct,
    pairwise_entries s.ct, fun _ _ => mem_entries, fun hnone => ?_, fun front e hentries => ?_,
    length_serializeEntries, length_serialize_le, rfl, exec_serialize_of_fits hs htable,
    exec_serialize_of_not_fits hs htable⟩⟩
  · rw [serialize, hnone, serializeEntries_nil]
  · rw [serialize, hentries, serializeEntries_append_singleton]

/-- Settles O39: the parser accepts what the grammar generates, and refuses or has read what it generates. -/
theorem deserializeAcceptsExactlyTheGrammar : Obligations.DeserializeAcceptsExactlyTheGrammar :=
  fun _ hs => ⟨fun _ _ => exec_deserialize_of_parses hs, exec_deserialize_of_malformed hs⟩

end Sys2Proof.CodeTables

/-! The codec: the loop of R125 against the model's decoding, the bits of an encoding, and what ENCODE,
COMPRESS, ASSEMBLE, DECODE and DECOMPRESS leave (spec/44_codec.md rules R120 to R130). -/

namespace Sys2Proof.Codec

open Sys2Proof.Machine Sys2Proof.Certificates Sys2Proof.Effects Sys2Proof.BitConverter Sys2Proof.CodeTables

/-- A step of a command followed by the rest raises a fault exactly when the step does or, after it, the rest
does. -/
theorem bind_error {α β : Type} {m : Except FaultCause α} {k : α → Except FaultCause β} {cause : FaultCause} :
    (m >>= k) = .error cause ↔ m = .error cause ∨ ∃ x, m = .ok x ∧ k x = .error cause := by
  cases m <;> simp [bind, Except.bind]

/-! ### The bits of an encoding (R120) -/

section Encoding

variable {T : CodeTable} {x : List Byte} {codes : List Code}

theorem encodeBytes_eq_flatten (h : x.map (fileGet T) = codes.map some) :
    encodeBytes T x = codes.flatten := by
  have hget : encodeBytes T x = ((x.map (fileGet T)).map fun e => e.getD []).flatten := by
    rw [encodeBytes, List.flatMap_def, List.map_map]
    rfl
  rw [hget, h, List.map_map]
  exact congrArg List.flatten (List.map_id codes)

theorem allEncodable_iff : allEncodable T x = true ↔ ∀ b ∈ x, fileGet T b ≠ none := by
  simp only [allEncodable, List.all_eq_true, Option.isSome_iff_ne_none]

theorem allEncodable_eq_false_iff : allEncodable T x = false ↔ ∃ b ∈ x, fileGet T b = none := by
  simp only [allEncodable, List.all_eq_false, Option.not_isSome_iff_eq_none]

theorem allEncodable_of_map_eq (h : x.map (fileGet T) = codes.map some) : allEncodable T x = true := by
  refine allEncodable_iff.2 fun b hb hnone => ?_
  obtain ⟨code, -, hcode⟩ := List.mem_map.1 (h ▸ List.mem_map_of_mem hb : fileGet T b ∈ codes.map some)
  rw [hnone] at hcode
  cases hcode

end Encoding

/-! ### The lookups of R125 as scans of the byte values -/

section Lookups

variable (T : CodeTable) (buf : Code)

theorem toList_eq_map_fileGet : T.toList = (List.range 256).map fun n => fileGet T (BitVec.ofNat 8 n) := by
  refine List.ext_getElem (by simp) fun n hn _ => ?_
  have hn : n < 256 := by simpa using hn
  simp [fileGet, Nat.mod_eq_of_lt hn]

theorem findIdx?_range (p : Nat → Bool) (n : Nat) : (List.range n).findIdx? p = (List.range n).find? p := by
  ext i
  rw [List.findIdx?_eq_some_iff_getElem, List.find?_range_eq_some]
  simp only [List.getElem_range, List.length_range, List.mem_range, Bool.not_eq_true, Bool.not_eq_true']
  exact ⟨fun ⟨hi, hp, hfirst⟩ => ⟨hp, hi, hfirst⟩, fun ⟨hp, hi, hfirst⟩ => ⟨hi, hp, hfirst⟩⟩

theorem matchCode_eq_smallestMatch : matchCode T buf = smallestMatch T buf := by
  rw [matchCode, toList_eq_map_fileGet, List.findIdx?_map, findIdx?_range, smallestMatch]
  exact congrArg (fun p => ((List.range 256).find? p).map _) (funext fun n => Bool.eq_iff_iff.2 (by simp))

theorem viable_eq_someCodeBegins : viable T buf = someCodeBegins T buf := by
  rw [viable, toList_eq_map_fileGet, List.any_map]
  refine congrArg (List.any _) (funext fun n => ?_)
  rw [Function.comp_apply]
  cases fileGet T (BitVec.ofNat 8 n) with
  | none => rfl
  | some code => exact Bool.eq_iff_iff.2 (by simp)

end Lookups

/-! ### Decoding is the loop of R125 -/

section Decoding

variable {T : CodeTable} {buf : Code} {bits rest : List Bit} {n : Nat} {b : Byte} {bit : Bit}
  {cause : FaultCause} {out : List Byte}

/-- `n` symbols decoded from the middle of a symbol, with the bits `buf` of its code already read. -/
def decodeFrom (T : CodeTable) : Nat → Code → List Bit → Except FaultCause (List Byte)
  | 0, _, _ => .ok []
  | n + 1, buf, bits => do
    let sym ← decodeSymbol T buf bits
    let out ← decodeBits T n sym.2
    return sym.1 :: out

theorem decodeFrom_nil (T : CodeTable) (n : Nat) (bits : List Bit) :
    decodeFrom T n [] bits = decodeBits T n bits := by
  cases n <;> rfl

theorem decodeSymbol_of_match (h : matchCode T buf = some b) : decodeSymbol T buf bits = .ok (b, bits) := by
  cases bits <;> rw [decodeSymbol, h]

theorem decodeFrom_of_match (h : matchCode T buf = some b) :
    decodeFrom T (n + 1) buf bits = (b :: ·) <$> decodeFrom T n [] bits := by
  rw [decodeFrom, decodeSymbol_of_match h, decodeFrom_nil]
  rfl

theorem decodeFrom_of_exhausted (h : matchCode T buf = none) :
    decodeFrom T (n + 1) buf [] = .error .decodeError := by
  rw [decodeFrom, decodeSymbol, h]
  rfl

theorem decodeFrom_of_viable (h : matchCode T buf = none) (hviable : viable T (buf ++ [bit]) = true) :
    decodeFrom T (n + 1) buf (bit :: bits) = decodeFrom T (n + 1) (buf ++ [bit]) bits := by
  rw [decodeFrom, decodeSymbol, h]
  simp only [hviable, if_true]
  rfl

theorem decodeFrom_of_not_viable (h : matchCode T buf = none) (hviable : viable T (buf ++ [bit]) = false) :
    decodeFrom T (n + 1) buf (bit :: bits) = .error .unknownCode := by
  rw [decodeFrom, decodeSymbol, h]
  simp only [hviable]
  rfl

/-- The loop of R125 after `out` and in the middle of a symbol, with turns enough for the `n` bytes and the
bits still to come, emits after `out` what decoding gives. -/
theorem decodeLoop_eq_decodeFrom {L turns i : Nat} {s : List Bit} (hlen : out.length + n = L)
    (hrest : s.drop i = rest) (hturns : n + rest.length < turns) :
    decodeLoop T L s turns out buf i = some ((out ++ ·) <$> decodeFrom T n buf rest) := by
  induction turns generalizing n rest out buf i with
  | zero => omega
  | succ turns ih =>
    rw [decodeLoop, ← matchCode_eq_smallestMatch]
    cases n with
    | zero => simp [← hlen, decodeFrom]
    | succ n =>
      rw [if_pos (by omega)]
      cases hmatch : matchCode T buf with
      | some b =>
        simp only
        rw [ih (n := n) (by simp; omega) hrest (by omega), decodeFrom_of_match hmatch, ← comp_map]
        simp [Function.comp_def]
      | none =>
        have hhead : s[i]? = rest.head? := by rw [← hrest, List.head?_drop]
        cases rest with
        | nil => simp [hhead, decodeFrom_of_exhausted hmatch]
        | cons bit rest =>
          have htail : s.drop (i + 1) = rest := by rw [← List.tail_drop, hrest, List.tail_cons]
          simp only [hhead, List.head?_cons, ← viable_eq_someCodeBegins]
          cases hviable : viable T (buf ++ [bit]) with
          | true =>
            rw [if_pos rfl, ih hlen htail (by simp at hturns; omega), decodeFrom_of_viable hmatch hviable]
          | false => rw [decodeFrom_of_not_viable hmatch hviable]; rfl

theorem decodeLoop_eq_decodeBits (T : CodeTable) (L : Nat) (s : List Bit) :
    decodeLoop T L s (L + s.length + 1) [] [] 0 = some (decodeBits T L s) := by
  rw [decodeLoop_eq_decodeFrom (n := L) (by simp) List.drop_zero (by omega), decodeFrom_nil]
  exact congrArg some (id_map _)

theorem length_of_decodeBits (h : decodeBits T n bits = .ok out) : out.length = n := by
  induction n generalizing bits out with
  | zero => cases h; rfl
  | succ n ih =>
    simp only [decodeBits, bind_ok, pure_ok] at h
    obtain ⟨sym, -, tail, htail, rfl⟩ := h
    rw [List.length_cons, ih htail]

theorem decodeSymbol_error (h : decodeSymbol T buf bits = .error cause) :
    cause = .decodeError ∨ cause = .unknownCode := by
  fun_induction decodeSymbol T buf bits with
  | case1 | case3 => cases h
  | case2 => cases h; exact .inl rfl
  | case4 _ _ _ _ _ ih => exact ih h
  | case5 => cases h; exact .inr rfl

theorem decodeBits_error (h : decodeBits T n bits = .error cause) :
    cause = .decodeError ∨ cause = .unknownCode := by
  induction n generalizing bits with
  | zero => cases h
  | succ n ih =>
    rw [decodeBits, bind_error] at h
    obtain hsym | ⟨sym, -, h⟩ := h
    · exact decodeSymbol_error hsym
    · obtain htail | ⟨out, -, h⟩ := bind_error.1 h
      · exact ih htail
      · cases h

end Decoding

/-! ### The operations of COMPRESS (R121) and DECOMPRESS (R128) -/

/-- The table the block derives from an input: `table(x)` of R124. -/
def inputTable (x : List Byte) : CodeTable :=
  tableOf (buildTree (countBytes x)).1 (buildTree (countBytes x)).2

/-- The bits of an input under its own table: `encode(table(x), x)` of R124. -/
def inputBits (x : List Byte) : List Bit := encodeBytes (inputTable x) x

/-- The state of COMPRESS with the counts, the tree and the table of the unread input in place (R121). -/
def withInputTree (s : State) : State :=
  { s with
    freq := countBytes (unreadOf s), fcOpen := false,
    nodes := (buildTree (countBytes (unreadOf s))).1, root := (buildTree (countBytes (unreadOf s))).2,
    treeValid := true, ct := inputTable (unreadOf s), ctValid := true }

theorem opCompress_eq (s : State) : opCompress s = do
    require (decide ((unreadOf s).length ≤ Config.max64)) .capacity
    let t ← (withInputTree s).writeBbuf (inputBits (unreadOf s))
    let t ← t.writeObuf (pack (inputBits (unreadOf s)))
    return (t.putLen (BitVec.ofNat 64 (unreadOf s).length)).consumeAll := by
  rw [opCompress, State.unread_eq, ← unreadOf]
  rfl

/-- The bits DECOMPRESS decodes, when the table takes `p` bytes of the container (R128 step 3). -/
def payloadBits (s : State) (p : Nat) : List Bit := flatten ((unreadOf s).drop (8 + p))

theorem length_payloadBits (s : State) (p : Nat) :
    (payloadBits s p).length = 8 * ((unreadOf s).length - 8 - p) := by
  rw [payloadBits, length_flatten, List.length_drop, Nat.sub_sub]

/-- DECOMPRESS past steps 1 and 2, with the table read (R128 steps 3 to 5 and the commit). -/
theorem opDecompress_of_parses {s : State} {T : CodeTable} {p : Nat} (hlen : 8 ≤ (unreadOf s).length)
    (hparses : Parses ((unreadOf s).drop 8) T p) : opDecompress s = do
      let t ← s.writeBbuf (payloadBits s p)
      require (s.obufAdmits (decodeLength ((unreadOf s).take 8)).toNat) .capacity
      let out ← decodeBits T (decodeLength ((unreadOf s).take 8)).toNat (payloadBits s p)
      return ((((t.putLen (decodeLength ((unreadOf s).take 8))).putCt T).markTable).putObuf
        out).consumeAll := by
  rw [opDecompress, State.unread_eq, ← unreadOf, decide_eq_true hlen, deserialize_of_parses hparses]
  rfl

/-! ### The commands -/

section Commands

variable {s : State} (hs : s.err = 0#8)

include hs

theorem exec_encode_of_fits (htable : s.ctValid = true) (hall : allEncodable s.ct (unreadOf s) = true)
    (h : fits s.caps.bbuf (encodeBytes s.ct (unreadOf s)).length) :
    exec .encode s = .next { s with bbuf := encodeBytes s.ct (unreadOf s), ipos := s.ibuf.length } :=
  issue_ok (op := opEncode) (.inl hs) (opEncode_ok.2 ⟨htable, hall, (bbufAdmits_iff_fits s _).2 h, rfl⟩)

theorem exec_encode_of_not_fits (htable : s.ctValid = true) (hall : allEncodable s.ct (unreadOf s) = true)
    (h : ¬ fits s.caps.bbuf (encodeBytes s.ct (unreadOf s)).length) :
    exec .encode s = .next (faulted s 7#8 0x4000#16) := by
  refine issue_faulted (op := opEncode) (cause := .capacity) hs ?_
  rw [opEncode, State.unread_eq, ← unreadOf, htable, hall, writeBbuf_of_not_fits h]
  rfl

theorem exec_encode_of_not_encodable
    (h : s.ctValid = false ∨ allEncodable s.ct (unreadOf s) = false) :
    exec .encode s = .next (faulted s 6#8 0x4000#16) := by
  refine issue_faulted (op := opEncode) (cause := .precondition) hs ?_
  rw [opEncode, State.unread_eq, ← unreadOf]
  cases htable : s.ctValid with
  | false => rfl
  | true =>
    rw [h.resolve_left (by simp [htable])]
    rfl

theorem exec_assemble_of_no_tree (htree : s.treeValid = false) :
    exec .assemble s = .next (faulted s 6#8 0x4200#16) := by
  refine issue_faulted (op := opAssemble) (cause := .precondition) hs ?_
  rw [opAssemble, htree]
  rfl

theorem exec_assemble_of_fits (htree : s.treeValid = true)
    (h : fits s.caps.obuf (containerOf s.len (tableOf s.nodes s.root) s.obuf).length) :
    exec .assemble s = .next { s with
      ct := tableOf s.nodes s.root, ctValid := true,
      obuf := containerOf s.len (tableOf s.nodes s.root) s.obuf } :=
  issue_ok (op := opAssemble) (.inl hs) (opAssemble_ok.2 ⟨htree, (obufAdmits_iff_fits s _).2 h, rfl⟩)

theorem exec_assemble_of_not_fits (htree : s.treeValid = true)
    (h : ¬ fits s.caps.obuf (containerOf s.len (tableOf s.nodes s.root) s.obuf).length) :
    exec .assemble s = .next (faulted s 7#8 0x4200#16) := by
  refine issue_faulted (op := opAssemble) (cause := .capacity) hs ?_
  rw [opAssemble, htree]
  exact writeObuf_of_not_fits (s := (s.putCt _).markTable) h

theorem exec_decode_of_no_table (htable : s.ctValid = false) :
    exec .decode s = .next (faulted s 6#8 0x4300#16) := by
  refine issue_faulted (op := opDecode) (cause := .precondition) hs ?_
  rw [opDecode, htable]
  rfl

theorem exec_decode_of_not_fits (htable : s.ctValid = true) (h : ¬ fits s.caps.obuf s.len.toNat) :
    exec .decode s = .next (faulted s 7#8 0x4300#16) := by
  refine issue_faulted (op := opDecode) (cause := .capacity) hs ?_
  rw [opDecode, htable, Bool.eq_false_iff.2 (mt (obufAdmits_iff_fits s _).1 h)]
  rfl

theorem exec_decode_of_ok {out : List Byte} (htable : s.ctValid = true) (h : fits s.caps.obuf s.len.toNat)
    (hout : decodeBits s.ct s.len.toNat s.bbuf = .ok out) :
    exec .decode s = .next { s with obuf := out } :=
  issue_ok (op := opDecode) (.inl hs) (opDecode_ok.2 ⟨htable, (obufAdmits_iff_fits s _).2 h, out, hout, rfl⟩)

theorem exec_decode_of_error {cause : FaultCause} (htable : s.ctValid = true)
    (h : fits s.caps.obuf s.len.toNat) (herror : decodeBits s.ct s.len.toNat s.bbuf = .error cause) :
    exec .decode s = .next (faulted s cause.code 0x4300#16) := by
  refine issue_faulted (op := opDecode) hs ?_
  rw [opDecode, htable, (obufAdmits_iff_fits s _).2 h, herror]
  rfl

theorem exec_compress_of_fits (hlen : (unreadOf s).length ≤ 2 ^ 64 - 1)
    (hbits : fits s.caps.bbuf (inputBits (unreadOf s)).length)
    (hpack : fits s.caps.obuf (((inputBits (unreadOf s)).length + 7) / 8)) :
    exec .compress s = .next { withInputTree s with
      bbuf := inputBits (unreadOf s), obuf := pack (inputBits (unreadOf s)),
      len := BitVec.ofNat 64 (unreadOf s).length, ipos := s.ibuf.length } := by
  rw [← length_pack] at hpack
  refine issue_ok (op := opCompress) (.inl hs) ?_
  rw [opCompress_eq, require_bind_ok, decide_eq_true_iff]
  exact ⟨hlen, bind_ok.2 ⟨_, writeBbuf_of_fits hbits, bind_ok.2 ⟨_, writeObuf_of_fits hpack, rfl⟩⟩⟩

theorem exec_compress_of_not_fits (h : (unreadOf s).length > 2 ^ 64 - 1 ∨
    ¬ fits s.caps.bbuf (inputBits (unreadOf s)).length ∨
    ¬ fits s.caps.obuf (((inputBits (unreadOf s)).length + 7) / 8)) :
    exec .compress s = .next (faulted s 7#8 0x4100#16) := by
  refine issue_faulted (op := opCompress) (cause := .capacity) hs ?_
  rw [← length_pack] at h
  rw [opCompress_eq, require_bind]
  split
  next hlen =>
    by_cases hbits : fits s.caps.bbuf (inputBits (unreadOf s)).length
    · have hpack := (h.resolve_left (not_lt.2 (of_decide_eq_true hlen))).resolve_left (not_not.2 hbits)
      exact bind_error.2 (.inr ⟨_, writeBbuf_of_fits hbits,
        bind_error.2 (.inl (writeObuf_of_not_fits hpack))⟩)
    · exact bind_error.2 (.inl (writeBbuf_of_not_fits hbits))
  next => rfl

theorem exec_decompress_of_short (h : (unreadOf s).length < 8) :
    exec .decompress s = .next (faulted s 1#8 0x4400#16) := by
  refine issue_faulted (op := opDecompress) (cause := .truncatedLength) hs ?_
  rw [opDecompress, State.unread_eq, ← unreadOf, decide_eq_false (not_le.2 h)]
  rfl

theorem exec_decompress_of_malformed (hlen : 8 ≤ (unreadOf s).length)
    (h : ∀ T p, ¬ Parses ((unreadOf s).drop 8) T p) :
    exec .decompress s = .next (faulted s 2#8 0x4400#16) := by
  refine issue_faulted (op := opDecompress) (cause := .malformedTable) hs ?_
  obtain herror | ⟨T, p, hparses, -⟩ := deserialize_cases ((unreadOf s).drop 8)
  · rw [opDecompress, State.unread_eq, ← unreadOf, decide_eq_true hlen, herror]
    rfl
  · exact absurd hparses (h T p)

section Parsed

variable {T : CodeTable} {p : Nat} (hlen : 8 ≤ (unreadOf s).length)
  (hparses : Parses ((unreadOf s).drop 8) T p)

include hlen hparses

theorem exec_decompress_of_not_fits (h : ¬ fits s.caps.bbuf (8 * ((unreadOf s).length - 8 - p)) ∨
    ¬ fits s.caps.obuf (decodeLength ((unreadOf s).take 8)).toNat) :
    exec .decompress s = .next (faulted s 7#8 0x4400#16) := by
  refine issue_faulted (op := opDecompress) (cause := .capacity) hs ?_
  rw [opDecompress_of_parses hlen hparses]
  rw [← length_payloadBits] at h
  by_cases hbits : fits s.caps.bbuf (payloadBits s p).length
  · have hroom := h.resolve_left (not_not.2 hbits)
    refine bind_error.2 (.inr ⟨_, writeBbuf_of_fits hbits, bind_error.2 (.inl ?_)⟩)
    rw [Bool.eq_false_iff.2 (mt (obufAdmits_iff_fits s _).1 hroom), require_false]
  · exact bind_error.2 (.inl (writeBbuf_of_not_fits hbits))

variable (hbits : fits s.caps.bbuf (8 * ((unreadOf s).length - 8 - p)))
  (hroom : fits s.caps.obuf (decodeLength ((unreadOf s).take 8)).toNat)

include hbits hroom

theorem exec_decompress_of_error {cause : FaultCause}
    (herror : decodeBits T (decodeLength ((unreadOf s).take 8)).toNat (payloadBits s p) = .error cause) :
    exec .decompress s = .next (faulted s cause.code 0x4400#16) := by
  refine issue_faulted (op := opDecompress) hs ?_
  rw [← length_payloadBits] at hbits
  rw [opDecompress_of_parses hlen hparses, writeBbuf_of_fits hbits, (obufAdmits_iff_fits s _).2 hroom, herror]
  rfl

theorem exec_decompress_of_ok {out : List Byte}
    (hout : decodeBits T (decodeLength ((unreadOf s).take 8)).toNat (payloadBits s p) = .ok out) :
    exec .decompress s = .next { s with
      len := decodeLength ((unreadOf s).take 8), ct := T, ctValid := true, bbuf := payloadBits s p,
      obuf := out, ipos := s.ibuf.length } := by
  refine issue_ok (op := opDecompress) (.inl hs) ?_
  rw [← length_payloadBits] at hbits
  rw [opDecompress_of_parses hlen hparses, writeBbuf_of_fits hbits, (obufAdmits_iff_fits s _).2 hroom, hout]
  rfl

end Parsed

end Commands

/-! ### Commands that end without fault -/

theorem code_ne_zero (cause : FaultCause) : cause.code ≠ 0#8 := by
  cases cause <;> decide

/-- A command that ends without fault has committed what its operation makes (R63 step 5). -/
theorem operation_ok_of_exec {i : Instr} {s t : State} (hs : s.err = 0#8) (h : exec i s = .next t)
    (ht : t.err = 0#8) : operation i s = .ok t := by
  rw [exec_eq_issue] at h
  obtain ⟨hlatched, -, -⟩ | ⟨-, hok⟩ | ⟨-, cause, -, rfl⟩ := issue_cases h
  · exact absurd hs hlatched
  · exact hok
  · exact absurd ht (code_ne_zero cause)

/-! ### The obligations -/

/-- Settles O41: the codes of the unread bytes are the entries `encodeBytes` concatenates. -/
theorem encodeConcatenatesTheCodes : Obligations.EncodeConcatenatesTheCodes := fun s hs => by
  refine ⟨fun codes htable hcodes => ?_, fun h =>
    exec_encode_of_not_encodable hs (h.imp_right allEncodable_eq_false_iff.2)⟩
  have hall := allEncodable_of_map_eq hcodes
  rw [← encodeBytes_eq_flatten hcodes]
  exact ⟨exec_encode_of_fits hs htable hall, exec_encode_of_not_fits hs htable hall⟩

/-- Settles O46: the rule's loop is `decodeBits`, which gives LEN bytes or one of two faults. -/
theorem decodeMapsTheBits : Obligations.DecodeMapsTheBits := fun s hs => by
  refine ⟨exec_decode_of_no_table hs, exec_decode_of_not_fits hs, fun htable hroom =>
    ⟨_, decodeLoop_eq_decodeBits s.ct s.len.toNat s.bbuf, fun out hout =>
      ⟨length_of_decodeBits hout, exec_decode_of_ok hs htable hroom hout⟩, fun cause herror => ?_⟩⟩
  obtain rfl | rfl := decodeBits_error herror
  · exact .inl ⟨rfl, exec_decode_of_error hs htable hroom herror⟩
  · exact .inr ⟨rfl, exec_decode_of_error hs htable hroom herror⟩

/-- Settles O51: DECOMPRESS by the step it stops at, or its commit. -/
theorem decompressFollowsTheFiveSteps : Obligations.DecompressFollowsTheFiveSteps := fun _ hs =>
  ⟨exec_decompress_of_short hs, exec_decompress_of_malformed hs, fun hlen _ _ hparses =>
    ⟨exec_decompress_of_not_fits hs hlen hparses, fun hbits hroom =>
      ⟨exec_decompress_of_error hs hlen hparses hbits hroom,
        exec_decompress_of_error hs hlen hparses hbits hroom,
        fun _ => exec_decompress_of_ok hs hlen hparses hbits hroom⟩⟩⟩

/-- Settles O54: what a DECODE or DECOMPRESS commits is a result of `decodeBits` for the LEN it leaves. -/
theorem decodingNeverReturnsAShortResult : Obligations.DecodingNeverReturnsAShortResult := by
  intro i s t hi hs h ht
  have hok := operation_ok_of_exec hs h ht
  obtain rfl | rfl := hi
  · obtain ⟨-, -, out, hout, rfl⟩ := opDecode_ok.1 hok
    exact length_of_decodeBits hout
  · obtain ⟨len, parsed, bits, out, -, -, -, -, -, -, hout, rfl⟩ := opDecompress_ok.1 hok
    exact length_of_decodeBits hout

/-- Settles O42: COMPRESS by its executions when all fits and when something does not. -/
theorem compressLeavesPayloadAndTree : Obligations.CompressLeavesPayloadAndTree := fun _ hs =>
  ⟨exec_compress_of_fits hs, exec_compress_of_not_fits hs⟩

/-- Settles O44: ASSEMBLE by its executions without a tree, with room for the container and without. -/
theorem assembleConcatenatesTheContainer : Obligations.AssembleConcatenatesTheContainer := fun _ hs =>
  ⟨exec_assemble_of_no_tree hs, fun htree =>
    ⟨exec_assemble_of_fits hs htree, exec_assemble_of_not_fits hs htree⟩⟩

end Sys2Proof.Codec

/-! The system and buffer commands: NOP, ICLR, IPUSH, BCLR and BPUSH without a latched fault, and ECLR and
SRST, which run also with one (spec/45_system_commands.md rules R140 to R146). -/

namespace Sys2Proof.SystemCommands

open Sys2Proof.Machine Sys2Proof.Certificates Sys2Proof.Effects

/-! ### The commands that act in every state -/

/-- NOP changes nothing whether it is executed or discarded (R140, R160). -/
theorem exec_nop (s : State) : exec .nop s = .next s := by
  by_cases hs : s.err = 0#8
  · exact issue_ok (op := opNop) (.inl hs) rfl
  · exact issue_latched (op := opNop) hs rfl

theorem exec_eclr (s : State) : exec .eclr s = .next { s with err := 0#8, errcmd := 0#16 } :=
  issue_ok (op := opEclr) (.inr rfl) rfl

theorem exec_srst (s : State) : exec .srst s = .next s.restart :=
  issue_ok (op := opSrst) (.inr rfl) rfl

/-! ### The commands a latched fault discards -/

theorem ibufAdmits_iff_fits (s : State) (n : Nat) : s.ibufAdmits n = true ↔ fits s.caps.ibuf n :=
  capacityAdmits_iff_fits _ _

/-- The two words of BPUSH (R62). -/
theorem encode_bpush (t : Bit) : encode (.bpush t) = if t then 0x0401#16 else 0x0400#16 := by
  cases t <;> rfl

section Commands

variable {s : State} (hs : s.err = 0#8)
include hs

theorem exec_iclr : exec .iclr s = .next { s with ibuf := [], ipos := 0 } :=
  issue_ok (op := opIclr) (.inl hs) rfl

theorem exec_bclr : exec .bclr s = .next { s with bbuf := [] } :=
  issue_ok (op := opBclr) (.inl hs) rfl

theorem exec_ipush_of_fits {b : Byte} (h : fits s.caps.ibuf (s.ibuf.length + 1)) :
    exec (.ipush b) s = .next { s with ibuf := s.ibuf ++ [b] } :=
  issue_ok (op := opIpush b) (.inl hs) (opIpush_ok.2 ⟨(ibufAdmits_iff_fits s _).2 h, rfl⟩)

theorem exec_ipush_of_not_fits {b : Byte} (h : ¬ fits s.caps.ibuf (s.ibuf.length + 1)) :
    exec (.ipush b) s = .next (faulted s 7#8 (0x02#8 ++ b)) := by
  refine issue_faulted (i := .ipush b) (op := opIpush b) (cause := .capacity) hs ?_
  rw [opIpush, State.ilen_eq, require_bind, if_neg (mt (ibufAdmits_iff_fits s _).1 h)]

theorem exec_bpush_of_fits {t : Bit} (h : fits s.caps.bbuf (s.bbuf.length + 1)) :
    exec (.bpush t) s = .next { s with bbuf := s.bbuf ++ [t] } :=
  issue_ok (op := opBpush t) (.inl hs) (opBpush_ok.2 ⟨(bbufAdmits_iff_fits s _).2 h, rfl⟩)

theorem exec_bpush_of_not_fits {t : Bit} (h : ¬ fits s.caps.bbuf (s.bbuf.length + 1)) :
    exec (.bpush t) s = .next (faulted s 7#8 (if t then 0x0401#16 else 0x0400#16)) := by
  rw [← encode_bpush]
  refine issue_faulted (op := opBpush t) (cause := .capacity) hs ?_
  rw [opBpush, State.blen_eq, require_bind, if_neg (mt (bbufAdmits_iff_fits s _).1 h)]

end Commands

/-! ### The reset state -/

/-- Of the bits of STATUS only bit 1, FC_OPEN, is set (R27, R170). -/
theorem status_restart (s : State) : s.restart.status = 0x02#8 := by
  have hlatched : s.restart.latched = false := (State.not_latched_iff _).2 (State.restart_err s)
  rw [State.status, hlatched, State.restart_ctValid, State.restart_treeValid, State.restart_fcOpen]
  decide

theorem holdsResetValues_restart (s : State) : HoldsResetValues s.restart := by
  have hfreq (b : Byte) : fileGet s.restart.freq b = 0#64 := by
    rw [State.restart_freq, fileGet_replicate]
  have hhidden (i : Nat) : hostReadElement (.node i) s.restart = none ∧
      hostReadElement (.ct i) s.restart = none ∧ hostReadElement (.ibuf i) s.restart = none ∧
      hostReadElement (.obuf i) s.restart = none ∧ hostReadElement (.bbuf i) s.restart = none := by
    simp [hostReadElement, memRead]
  exact ⟨rfl, rfl, rfl, rfl, rfl, rfl, rfl, rfl, rfl, rfl, rfl, hfreq, status_restart s,
    hhidden⟩

/-! ### The obligations -/

/-- Settles O16: NOP in every state, ICLR and BCLR where no fault is latched. -/
theorem nopIclrBclrResults : Obligations.NopIclrBclrResults :=
  ⟨exec_nop, fun _ hs => ⟨exec_iclr hs, exec_bclr hs⟩⟩

/-- Settles O17, by the two answers of IPUSH's capacity test. -/
theorem ipushAppendsItsByte : Obligations.IpushAppendsItsByte := fun _ _ hs =>
  ⟨exec_ipush_of_fits hs, exec_ipush_of_not_fits hs⟩

/-- Settles O18, by the two answers of BPUSH's capacity test. -/
theorem bpushAppendsItsBit : Obligations.BpushAppendsItsBit := fun _ _ hs =>
  ⟨exec_bpush_of_fits hs, exec_bpush_of_not_fits hs⟩

/-- Settles O19: ECLR runs whether or not a fault is latched, and clears the latch. -/
theorem eclrClearsTheLatch : Obligations.EclrClearsTheLatch := exec_eclr

/-- Settles O20: SRST runs whether or not a fault is latched, and its next state is `State.restart`. -/
theorem srstTakesTheResetState : Obligations.SrstTakesTheResetState := fun s =>
  ⟨s.restart, exec_srst s, holdsResetValues_restart s, State.restart_caps s⟩

end Sys2Proof.SystemCommands

/-! Exceptions: what a word does under the fault latch, the operations that raise PreconditionFault, and the two
ends a command has without a latched fault (spec/60_exceptions.md rules R150 to R162). -/

namespace Sys2Proof.Exceptions

open Sys2Proof.Machine Sys2Proof.Certificates Sys2Proof.Effects Sys2Proof.Encoding Sys2Proof.CodeTables
  Sys2Proof.Codec Sys2Proof.SystemCommands

/-! ### Words and steps -/

theorem execWord_of_decode {w : CmdWord} {i : Instr} (h : decode w = some i) (s : State) :
    execWord w s = exec i s := by
  rw [execWord, h]

theorem execWord_eclr (s : State) :
    execWord 0x0500#16 s = .next { s with err := 0#8, errcmd := 0#16 } :=
  (execWord_of_decode (decode_encode .eclr) s).trans (exec_eclr s)

theorem execWord_srst (s : State) : execWord 0x0600#16 s = .next s.restart :=
  (execWord_of_decode (decode_encode .srst) s).trans (exec_srst s)

theorem step_of_hostQueue {s : State} {a : HostAction} {rest : List HostAction}
    (h : s.hostQueue = a :: rest) : step s = hostAct a { s with hostQueue := rest } := by
  rw [step, nextAction, h]

/-! ### Under the latch (R160) -/

section Latched

variable {s : State} (hs : s.err ≠ 0#8)
include hs

theorem exec_of_latched {i : Instr} (heclr : i ≠ .eclr) (hsrst : i ≠ .srst) : exec i s = .next s := by
  have hdiscarded : runsLatched i = false := by
    cases i with
    | eclr => contradiction
    | srst => contradiction
    | _ => rfl
  rw [exec_eq_issue, issue_latched hs hdiscarded]

theorem execWord_of_latched {w : CmdWord} (heclr : w ≠ 0x0500#16) (hsrst : w ≠ 0x0600#16) :
    execWord w s = .next s := by
  cases hw : decode w with
  | none => rw [execWord, hw, (State.latched_iff s).2 hs]; rfl
  | some i =>
    have hword := encode_of_decode hw
    rw [execWord_of_decode hw]
    refine exec_of_latched hs ?_ ?_
    · rintro rfl; exact heclr hword.symm
    · rintro rfl; exact hsrst hword.symm

/-- Under the latch a word changes nothing or clears the latch: faults do not nest (R162). -/
theorem eq_or_err_of_execWord_of_latched {w : CmdWord} {t : State} (h : execWord w s = .next t) :
    t = s ∨ t.err = 0#8 := by
  by_cases heclr : w = 0x0500#16
  · rw [heclr, execWord_eclr] at h
    cases h
    exact .inr rfl
  · by_cases hsrst : w = 0x0600#16
    · rw [hsrst, execWord_srst] at h
      cases h
      exact .inr rfl
    · rw [execWord_of_latched hs heclr hsrst] at h
      cases h
      exact .inl rfl

end Latched

/-! ### Reads under the latch -/

/-- No element read depends on the latch (R25, R160). -/
theorem hostReadElement_clearLatch (e : Element) (s : State) :
    hostReadElement e s.clearLatch = hostReadElement e s := by
  cases e <;> rfl

/-- Of the registers only STATUS, ERR and ERRCMD depend on the latch (R27, R160). -/
theorem hostReadReg_clearLatch {n : Nat} (hn : 3 ≤ n) (s : State) :
    hostReadReg n s.clearLatch = hostReadReg n s := by
  match n, hn with
  | 3, _ | 4, _ | 5, _ | 6, _ | 7, _ | 8, _ | _ + 9, _ => rfl

/-! ### Commits keep the latch clear -/

theorem opCompress_ok {s t : State} : opCompress s = .ok t ↔ (unreadOf s).length ≤ Config.max64 ∧
    s.bbufAdmits (inputBits (unreadOf s)).length = true ∧
    s.obufAdmits (pack (inputBits (unreadOf s))).length = true ∧
    t = (((((withInputTree s).putBbuf (inputBits (unreadOf s))).putObuf
      (pack (inputBits (unreadOf s)))).putLen (BitVec.ofNat 64 (unreadOf s).length)).consumeAll) := by
  rw [opCompress_eq, require_bind_ok, decide_eq_true_iff]
  simp only [bind_ok, writeBbuf_ok, writeObuf_ok, pure_ok, and_assoc, exists_and_left, exists_eq_left]
  rfl

theorem err_of_operation {i : Instr} {s t : State} (hs : s.err = 0#8) (h : operation i s = .ok t) :
    t.err = 0#8 := by
  cases i with
  | nop | iclr | bclr | fnew => obtain rfl := pure_ok.1 h; exact hs
  | eclr | srst => obtain rfl := pure_ok.1 h; rfl
  | ipush imm8 => obtain ⟨-, rfl⟩ := opIpush_ok.1 h; exact hs
  | bpush imm1 => obtain ⟨-, rfl⟩ := opBpush_ok.1 h; exact hs
  | flatten => obtain ⟨-, rfl⟩ := opFlatten_ok.1 h; exact hs
  | pack | enclen => obtain ⟨-, rfl⟩ := writeObuf_ok.1 h; exact hs
  | declen => obtain ⟨-, rfl⟩ := opDeclen_ok.1 h; exact hs
  | feed imm8 => obtain ⟨-, -, rfl⟩ := opFeed_ok.1 h; exact hs
  | finalize => obtain ⟨-, rfl⟩ := opFinalize_ok.1 h; exact hs
  | build => obtain ⟨-, rfl⟩ := opBuild_ok.1 h; exact hs
  | gentable => obtain ⟨-, rfl⟩ := opGentable_ok.1 h; exact hs
  | serialize => obtain ⟨-, -, rfl⟩ := opSerialize_ok.1 h; exact hs
  | deserialize => obtain ⟨_, -, rfl⟩ := opDeserialize_ok.1 h; exact hs
  | encode => obtain ⟨-, -, -, rfl⟩ := opEncode_ok.1 h; exact hs
  | compress => obtain ⟨-, -, -, rfl⟩ := opCompress_ok.1 h; exact hs
  | assemble => obtain ⟨-, -, rfl⟩ := opAssemble_ok.1 h; exact hs
  | decode => obtain ⟨-, -, _, -, rfl⟩ := opDecode_ok.1 h; exact hs
  | decompress => obtain ⟨_, _, _, _, -, -, -, -, -, -, -, rfl⟩ := opDecompress_ok.1 h; exact hs

/-- The two ends of a command without a latched fault (R63 steps 4 and 5): a commit, which leaves the latch
clear, or the fault its operation raises. -/
theorem exec_cases_of_not_latched {i : Instr} {s t : State} (hs : s.err = 0#8) (h : exec i s = .next t) :
    operation i s = .ok t ∧ t.err = 0#8 ∨
      ∃ cause, operation i s = .error cause ∧ t = faulted s cause.code (encode i) := by
  rw [exec_eq_issue] at h
  obtain ⟨hlatched, -, -⟩ | ⟨-, hok⟩ | ⟨-, cause, herror, hfault⟩ := issue_cases h
  · exact absurd hs hlatched
  · exact .inl ⟨hok, err_of_operation hs hok⟩
  · exact .inr ⟨cause, herror, hfault⟩

theorem eq_faulted_of_execWord {w : CmdWord} {s t : State} (hs : s.err = 0#8)
    (h : execWord w s = .next t) (ht : t.err ≠ 0#8) : t = faulted s t.err w := by
  cases hw : decode w with
  | none =>
    rw [execWord_illegal hw hs] at h
    cases h
    rfl
  | some i =>
    rw [execWord_of_decode hw] at h
    obtain ⟨-, hclear⟩ | ⟨cause, -, rfl⟩ := exec_cases_of_not_latched hs h
    · exact absurd hclear ht
    · rw [encode_of_decode hw]
      rfl

/-! ### The operations that raise PreconditionFault (R156) -/

theorem code_eq_six_iff {cause : FaultCause} : cause.code = 6#8 ↔ cause = .precondition := by
  cases cause <;> decide

section Raises

variable {α β : Type} {cause cause' : FaultCause}

theorem bind_ne_error {m : Except FaultCause α} {k : α → Except FaultCause β} (hm : m ≠ .error cause)
    (hk : ∀ x, k x ≠ .error cause) : (m >>= k) ≠ .error cause := fun h =>
  (bind_error.1 h).elim hm fun ⟨x, _, hx⟩ => hk x hx

theorem pure_ne_error (x : α) : (pure x : Except FaultCause α) ≠ .error cause := nofun

theorem require_ne_error (c : Bool) (h : cause ≠ cause') : require c cause ≠ .error cause' := by
  cases c with
  | true => nofun
  | false => simpa using h

/-- A requirement followed by the rest of a command raises its fault exactly when it does not hold or the rest
raises that fault. -/
theorem require_bind_error_or {c : Bool} {k : Unit → Except FaultCause α} :
    (require c cause >>= k) = .error cause ↔ c = false ∨ k () = .error cause := by
  cases c with
  | true => exact (or_iff_right nofun).symm
  | false => exact iff_of_true rfl (.inl rfl)

theorem require_bind_error_iff {c : Bool} {k : Unit → Except FaultCause α} (hk : k () ≠ .error cause) :
    (require c cause >>= k) = .error cause ↔ c = false :=
  require_bind_error_or.trans (or_iff_left hk)

theorem require_capacity_ne_precondition (c : Bool) : require c .capacity ≠ .error .precondition :=
  require_ne_error c (by decide)

theorem writeObuf_ne_precondition (s : State) (bytes : List Byte) :
    s.writeObuf bytes ≠ .error .precondition :=
  bind_ne_error (require_capacity_ne_precondition _) fun _ => pure_ne_error _

theorem writeBbuf_ne_precondition (s : State) (bits : List Bit) :
    s.writeBbuf bits ≠ .error .precondition :=
  bind_ne_error (require_capacity_ne_precondition _) fun _ => pure_ne_error _

theorem deserialize_ne_precondition (src : List Byte) : deserialize src ≠ .error .precondition := by
  obtain h | ⟨T, p, -, h⟩ := deserialize_cases src <;> rw [h] <;> nofun

theorem decodeBits_ne_precondition (T : CodeTable) (n : Nat) (bits : List Bit) :
    decodeBits T n bits ≠ .error .precondition := fun h =>
  (decodeBits_error h).elim nofun nofun

end Raises

theorem opCompress_ne_precondition (s : State) : opCompress s ≠ .error .precondition :=
  bind_ne_error (require_capacity_ne_precondition _) fun _ =>
    bind_ne_error (writeBbuf_ne_precondition _ _) fun _ =>
      bind_ne_error (writeObuf_ne_precondition _ _) fun _ => pure_ne_error _

theorem opDecompress_ne_precondition (s : State) : opDecompress s ≠ .error .precondition :=
  bind_ne_error (require_ne_error _ (by decide)) fun _ =>
    bind_ne_error (deserialize_ne_precondition _) fun _ =>
      bind_ne_error (writeBbuf_ne_precondition _ _) fun _ =>
        bind_ne_error (require_capacity_ne_precondition _) fun _ =>
          bind_ne_error (decodeBits_ne_precondition _ _ _) fun _ => pure_ne_error _

theorem opEncode_error_precondition_iff (s : State) : opEncode s = .error .precondition ↔
    s.ctValid = false ∨ ∃ b ∈ unreadOf s, fileGet s.ct b = none := by
  rw [← allEncodable_eq_false_iff]
  exact Iff.trans require_bind_error_or (or_congr_right (require_bind_error_iff
    (bind_ne_error (writeBbuf_ne_precondition _ _) fun _ => pure_ne_error _)))

theorem operation_error_precondition_iff (i : Instr) (s : State) :
    operation i s = .error .precondition ↔ preconditionFails i s := by
  cases i with
  | nop | iclr | bclr | eclr | srst | fnew => exact iff_of_false (pure_ne_error _) id
  | ipush imm8 | bpush imm1 =>
    exact iff_of_false
      (bind_ne_error (require_capacity_ne_precondition _) fun _ => pure_ne_error _) id
  | flatten =>
    exact iff_of_false (bind_ne_error (writeBbuf_ne_precondition _ _) fun _ => pure_ne_error _) id
  | pack | enclen => exact iff_of_false (writeObuf_ne_precondition _ _) id
  | deserialize =>
    exact iff_of_false (bind_ne_error (deserialize_ne_precondition _) fun _ => pure_ne_error _) id
  | compress => exact iff_of_false (opCompress_ne_precondition s) id
  | decompress => exact iff_of_false (opDecompress_ne_precondition s) id
  | declen =>
    refine Iff.trans (require_bind_error_iff (pure_ne_error _)) ?_
    rw [decide_eq_false_iff_not, not_le]
    rfl
  | feed imm8 =>
    exact require_bind_error_iff
      (bind_ne_error (require_capacity_ne_precondition _) fun _ => pure_ne_error _)
  | finalize | gentable => exact require_bind_error_iff (pure_ne_error _)
  | build => exact Iff.trans (require_bind_error_iff (pure_ne_error _)) (Bool.not_eq_false' _).to_iff
  | serialize | assemble => exact require_bind_error_iff (writeObuf_ne_precondition _ _)
  | encode => exact opEncode_error_precondition_iff s
  | decode =>
    exact require_bind_error_iff (bind_ne_error (require_capacity_ne_precondition _) fun _ =>
      bind_ne_error (decodeBits_ne_precondition _ _ _) fun _ => pure_ne_error _)

/-! ### The obligations -/

/-- Settles O8: a discarded word leaves the state, ECLR and SRST act in every state, and no read but that of
STATUS, ERR and ERRCMD depends on the latch. -/
theorem latchedBlockDiscardsCommands : Obligations.LatchedBlockDiscardsCommands := by
  intro s hs
  refine ⟨fun w rest hq heclr hsrst => ?_, fun i => exec_of_latched hs, fun rest hq => ?_,
    fun rest hq => ⟨_, ?_, holdsResetValues_restart { s with hostQueue := rest }, rfl⟩,
    fun v rest hq => step_of_hostQueue hq, fun n rest hq => step_of_hostQueue hq,
    fun e rest hq => step_of_hostQueue hq, fun e => (hostReadElement_clearLatch e s).symm,
    fun n hn => (hostReadReg_clearLatch hn s).symm⟩
  · exact (step_of_hostQueue hq).trans (execWord_of_latched (s := { s with hostQueue := rest }) hs heclr hsrst)
  · exact (step_of_hostQueue hq).trans (execWord_eclr _)
  · exact (step_of_hostQueue hq).trans (execWord_srst _)

/-- Settles O11: a word that ends with the latch set has raised a fault, as a commit leaves it clear. -/
theorem faultChangesOnlyTheLatch : Obligations.FaultChangesOnlyTheLatch := fun _ _ _ =>
  eq_faulted_of_execWord

/-- Settles O12: ECLR undoes the two writes of a fault, and under the latch no word raises one. -/
theorem eclrReturnsToTheStateBeforeTheFault : Obligations.EclrReturnsToTheStateBeforeTheFault := by
  refine ⟨fun w s t hs hcmd h ht => ?_, fun _ _ _ hs => eq_or_err_of_execWord_of_latched hs⟩
  rw [eq_faulted_of_execWord hs h ht, exec_eclr, ← hs, ← hcmd]
  rfl

/-- Settles O14: a command leaves code 6 exactly when its operation raises PreconditionFault. -/
theorem preconditionFaultExactlyAsListed : Obligations.PreconditionFaultExactlyAsListed := by
  intro i s t hs h
  rw [← operation_error_precondition_iff]
  obtain ⟨hok, hclear⟩ | ⟨cause, herror, rfl⟩ := exec_cases_of_not_latched hs h
  · rw [hok, hclear]
    exact iff_of_false (by decide) nofun
  · rw [herror, Except.error.injEq]
    exact code_eq_six_iff

/-- Settles O7: the step writes the illegal word to CMD in the state without that action. -/
theorem stepRaisesIllegalCommand : Obligations.StepRaisesIllegalCommand := fun _ _ _ hs hq hw =>
  (step_of_hostQueue hq).trans (execWord_illegal hw hs)

end Sys2Proof.Exceptions

/-! Every command, word and host action has a next state, so commands run one after another to their end
(spec/30_encoding.md rule R63, spec/20_memory.md rule R48). -/

namespace Sys2Proof.Outcomes

open Sys2Proof.Machine Sys2Proof.Certificates Sys2Proof.Effects

/-! ### There is a next state -/

theorem exists_next_issue (i : Instr) (op : State → Except FaultCause State) (s : State) :
    ∃ t, issue i op s = .next t := by
  rw [issue]
  split
  · exact ⟨_, rfl⟩
  · split <;> exact ⟨_, rfl⟩

theorem exists_next_exec (i : Instr) (s : State) : ∃ t, exec i s = .next t :=
  exec_eq_issue i s ▸ exists_next_issue i _ s

theorem exists_next_execWord (w : CmdWord) (s : State) : ∃ t, execWord w s = .next t := by
  rw [execWord]
  split
  · exact exists_next_exec _ s
  · split <;> exact ⟨_, rfl⟩

theorem exists_next_hostAct (a : HostAction) (s : State) : ∃ t, hostAct a s = .next t := by
  cases a with
  | command w => exact exists_next_execWord w s
  | writeReg n v =>
    rw [hostAct, hostWriteReg]
    split
    · exact ⟨_, rfl⟩
    · split
      · exact exists_next_execWord _ s
      · exact ⟨_, rfl⟩
  | readReg | readElement | hardReset => exact ⟨_, rfl⟩

theorem exists_next_step (s : State) : ∃ t, step s = .next t := by
  rw [step, nextAction]
  split
  · exact ⟨_, rfl⟩
  · exact exists_next_hostAct _ _

/-- Settles O10, by the branches of the execution of a command, a word and a host action. -/
theorem everyCommandAnswersANextState : Obligations.EveryCommandAnswersANextState :=
  ⟨exists_next_exec, exists_next_execWord, exists_next_step⟩

/-! ### Commands one after another -/

theorem runCommands_cons_of_next {i : Instr} {rest : List Instr} {s t : State} (h : exec i s = .next t) :
    runCommands (i :: rest) s = runCommands rest t := by
  rw [runCommands, h]

theorem exists_next_runCommands (is : List Instr) (s : State) : ∃ t, runCommands is s = .next t := by
  induction is generalizing s with
  | nil => exact ⟨s, rfl⟩
  | cons i rest ih =>
    obtain ⟨mid, hmid⟩ := exists_next_exec i s
    rw [runCommands_cons_of_next hmid]
    exact ih mid

theorem runCommands_append_of_next {first rest : List Instr} {s t : State}
    (h : runCommands first s = .next t) : runCommands (first ++ rest) s = runCommands rest t := by
  induction first generalizing s with
  | nil => cases h; rfl
  | cons i first ih =>
    obtain ⟨mid, hmid⟩ := exists_next_exec i s
    rw [runCommands_cons_of_next hmid] at h
    rw [List.cons_append, runCommands_cons_of_next hmid, ih h]

end Sys2Proof.Outcomes

/-! Counting an input: the counts `countBytes` makes, and FNEW, FEED of every byte and FINALIZE one after another
(spec/41_frequency_counter.md rule R83). -/

namespace Sys2Proof.Counting

open Sys2Proof.Machine Sys2Proof.Certificates Sys2Proof.FrequencyCounter Sys2Proof.Outcomes

/-! ### Sums over an input as sums over the byte values -/

theorem mem_byteValues (b : Byte) : b ∈ (List.range 256).map (BitVec.ofNat 8) :=
  List.mem_map.2 ⟨b.toNat, List.mem_range.2 b.isLt, by simp⟩

theorem nodup_byteValues : ((List.range 256).map (BitVec.ofNat 8)).Nodup :=
  List.nodup_range.map_on fun m hm n hn heq => by
    have hval := congrArg BitVec.toNat heq
    rwa [BitVec.toNat_ofNat, BitVec.toNat_ofNat, Nat.mod_eq_of_lt (List.mem_range.1 hm),
      Nat.mod_eq_of_lt (List.mem_range.1 hn)] at hval

/-- Each byte value contributes to a sum as often as it occurs. -/
theorem sum_map_eq_sum_count_mul (x : List Byte) (g : Byte → Nat) : (x.map g).sum =
    ((List.range 256).map fun n => x.count (BitVec.ofNat 8 n) * g (BitVec.ofNat 8 n)).sum := by
  have hsubset : x.toFinset ⊆ ((List.range 256).map (BitVec.ofNat 8)).toFinset := fun b _ =>
    List.mem_toFinset.2 (mem_byteValues b)
  rw [Finset.sum_list_map_count, Finset.sum_subset hsubset fun b _ hb => by
    rw [List.count_eq_zero.2 (mt List.mem_toFinset.2 hb), zero_smul],
    List.sum_toFinset _ nodup_byteValues, List.map_map]
  rfl

/-! ### The counts of an input -/

theorem toNat_countBytes {x : List Byte} (h : x.length < 2 ^ 64) (b : Byte) :
    (fileGet (countBytes x) b).toNat = x.count b := by
  rw [countBytes, fileGet_tabulate, BitVec.toNat_ofNat, BitVec.ofNat_toNat, BitVec.setWidth_eq,
    Nat.mod_eq_of_lt (List.count_le_length.trans_lt h)]

theorem countBytes_ne_zero_iff {x : List Byte} (h : x.length < 2 ^ 64) {b : Byte} :
    fileGet (countBytes x) b ≠ 0#64 ↔ b ∈ x := by
  rw [← List.count_pos_iff, ← toNat_countBytes h, Nat.pos_iff_ne_zero, Ne, Ne, BitVec.toNat_eq]
  rfl

theorem sum_countBytes {x : List Byte} (h : x.length < 2 ^ 64) :
    ((countBytes x).toList.map (·.toNat)).sum = x.length := by
  have hcounts : (countBytes x).toList.map (·.toNat) =
      (List.range 256).map fun n => x.count (BitVec.ofNat 8 n) * 1 := by
    rw [countBytes, tabulate, Vector.toList_mk, List.map_map]
    refine List.map_congr_left fun n _ => ?_
    simpa using Nat.mod_eq_of_lt (List.count_le_length.trans_lt h)
  rw [hcounts, ← sum_map_eq_sum_count_mul x fun _ => 1]
  simp

theorem countBytes_nil : countBytes [] = zeroFreq :=
  file_ext fun b => by rw [fileGet_zeroFreq, countBytes, fileGet_tabulate]; rfl

/-- One more byte adds one to its count alone. -/
theorem countBytes_append_singleton (x : List Byte) (b : Byte) : countBytes (x ++ [b]) =
    fileSet (countBytes x) b (fileGet (countBytes x) b + 1#64) := by
  refine file_ext fun c => ?_
  simp only [fileGet_fileSet, countBytes, fileGet_tabulate, BitVec.ofNat_toNat, BitVec.setWidth_eq,
    List.count_append, List.count_singleton]
  by_cases hcb : c = b
  · subst hcb
    simp [BitVec.ofNat_add]
  · simp [hcb, Ne.symm hcb]

/-! ### Feeding -/

section Feeding

variable {s : State} (hs : s.err = 0#8)
include hs

theorem runCommands_feed {done x : List Byte} (h : (done ++ x).length < 2 ^ 64) :
    runCommands (x.map .feed) { s with freq := countBytes done, fcOpen := true } =
      .next { s with freq := countBytes (done ++ x), fcOpen := true } := by
  induction x generalizing done with
  | nil => rw [List.append_nil]; rfl
  | cons b x ih =>
    rw [List.append_cons] at h ⊢
    have hlt : (fileGet (countBytes done) b).toNat < 2 ^ 64 - 1 := by
      simp only [List.length_append, List.length_singleton] at h
      have hcount := (done.count_le_length (a := b))
      rw [toNat_countBytes (by omega)]
      omega
    rw [List.map_cons, runCommands_cons_of_next
      (exec_feed_of_lt (s := { s with freq := countBytes done, fcOpen := true }) hs rfl hlt), ← ih h,
      countBytes_append_singleton]

/-- FNEW, FEED of every byte and FINALIZE put the counts in FREQ and close the counter (R83). -/
theorem runCommands_count {x : List Byte} (h : x.length < 2 ^ 64) :
    runCommands (.fnew :: x.map .feed ++ [.finalize]) s =
      .next { s with freq := countBytes x, fcOpen := false } := by
  have hfeed := runCommands_feed hs (done := []) (x := x) h
  rw [countBytes_nil] at hfeed
  rw [List.cons_append, runCommands_cons_of_next (exec_fnew hs), runCommands_append_of_next hfeed,
    runCommands_cons_of_next (exec_finalize_of_open (s := { s with freq := _, fcOpen := true }) hs rfl)]
  rfl

end Feeding

/-! ### The obligation -/

/-- Settles O28, by induction on the bytes fed, with the counts of those fed before. -/
theorem feedingCountsTheInput : Obligations.FeedingCountsTheInput := fun _ _ hs hx =>
  ⟨runCommands_count hs hx, toNat_countBytes hx, sum_countBytes hx⟩

end Sys2Proof.Counting

/-! Arenas whose children stand below their parents: the paths and the nodes below a node, and what the walk of
GENTABLE enters for a leaf (spec/10_state.md rule R31, spec/43_code_table.md rules R101 and R112). -/

namespace Sys2Proof.Trees

open Sys2Proof.Machine Sys2Proof.Certificates

/-! ### Paths and the nodes below a node -/

section Paths

variable {a : Arena} {i j k l r : NodeId} {w : Weight} {p q : Code} {d : Nat}

/-- A node without children: the paths and the nodes below it end at it. -/
def Childless (a : Arena) (i : NodeId) : Prop := ∀ w l r, nodeGet a i ≠ .internal w l r

theorem childless_of_leaf {b : Byte} (h : nodeGet a i = .leaf b w) : Childless a i := fun _ _ _ h' => by
  rw [h] at h'
  cases h'

theorem edgePath_of_childless (h : Childless a i) (hp : EdgePath a i p j) : p = [] ∧ j = i := by
  cases hp with
  | here => exact ⟨rfl, rfl⟩
  | left _ l r _ w _ hi => exact absurd hi (h w l r)
  | right _ l r _ w _ hi => exact absurd hi (h w l r)

theorem edgePath_cons_iff (h : nodeGet a i = .internal w l r) (bit : Bit) :
    EdgePath a i (bit :: p) j ↔ EdgePath a (if bit then r else l) p j := by
  constructor
  · intro hp
    cases hp with
    | left _ _ _ _ _ _ hi hrest => rw [h] at hi; cases hi; exact hrest
    | right _ _ _ _ _ _ hi hrest => rw [h] at hi; cases hi; exact hrest
  · intro hp
    cases bit with
    | false => exact .left i l r j w p h hp
    | true => exact .right i l r j w p h hp

/-- What follows the beginning of a path is a path from where the beginning leads. -/
theorem edgePath_append (hp : EdgePath a i p j) : EdgePath a i (p ++ q) k ↔ EdgePath a j q k := by
  induction hp with
  | here => rfl
  | left _ _ _ _ _ _ hi _ ih => exact (edgePath_cons_iff hi false).trans ih
  | right _ _ _ _ _ _ hi _ ih => exact (edgePath_cons_iff hi true).trans ih

theorem reach_of_childless (h : Childless a i) (d : Nat) : reach a (d + 1) i = [i] := by
  rw [reach]
  cases hi : nodeGet a i with
  | internal w l r => exact absurd hi (h w l r)
  | leaf | placeholder | unused => rfl

theorem reach_of_internal (h : nodeGet a i = .internal w l r) (d : Nat) :
    reach a (d + 1) i = i :: (reach a d l ++ reach a d r) := by
  rw [reach, h]

/-- The nodes `reach` lists are those at the ends of the paths shorter than its depth. -/
theorem mem_reach_iff : j ∈ reach a d i ↔ ∃ p, p.length < d ∧ EdgePath a i p j := by
  induction d generalizing i with
  | zero => simp [reach]
  | succ d ih =>
    by_cases h : Childless a i
    · rw [reach_of_childless h, List.mem_singleton]
      constructor
      · rintro rfl
        exact ⟨[], d.succ_pos, .here j⟩
      · rintro ⟨p, -, hp⟩
        exact (edgePath_of_childless h hp).2
    · obtain ⟨w, l, r, hi⟩ : ∃ w l r, nodeGet a i = .internal w l r := by simpa [Childless] using h
      rw [reach_of_internal hi, List.mem_cons, List.mem_append, ih, ih]
      constructor
      · rintro (rfl | ⟨p, hd, hp⟩ | ⟨p, hd, hp⟩)
        · exact ⟨[], d.succ_pos, .here j⟩
        · exact ⟨false :: p, Nat.succ_lt_succ hd, .left i l r j w p hi hp⟩
        · exact ⟨true :: p, Nat.succ_lt_succ hd, .right i l r j w p hi hp⟩
      · rintro ⟨p, hd, hp⟩
        cases hp with
        | here => exact .inl rfl
        | left _ _ _ _ _ p hi' hrest =>
          rw [hi] at hi'; cases hi'; exact .inr (.inl ⟨p, Nat.lt_of_succ_lt_succ hd, hrest⟩)
        | right _ _ _ _ _ p hi' hrest =>
          rw [hi] at hi'; cases hi'; exact .inr (.inr ⟨p, Nat.lt_of_succ_lt_succ hd, hrest⟩)

/-- Writing a node that is not met from `i` leaves the nodes met from `i`. -/
theorem reach_nodeSet {n : NodeId} (x : Node) (h : n ∉ reach a d i) :
    reach (nodeSet a n x) d i = reach a d i := by
  induction d generalizing i with
  | zero => rfl
  | succ d ih =>
    have hget : nodeGet (nodeSet a n x) i = nodeGet a i := by
      rw [nodeGet_nodeSet, if_neg]
      rintro rfl
      exact h (List.mem_cons_self ..)
    by_cases hi : Childless a i
    · rw [reach_of_childless hi, reach_of_childless fun w l r => hget ▸ hi w l r]
    · obtain ⟨w, l, r, hi⟩ : ∃ w l r, nodeGet a i = .internal w l r := by simpa [Childless] using hi
      rw [reach_of_internal hi] at h
      rw [reach_of_internal hi, reach_of_internal (hget.trans hi), ih, ih]
      · exact fun hr => h (List.mem_cons_of_mem _ (List.mem_append_right _ hr))
      · exact fun hl => h (List.mem_cons_of_mem _ (List.mem_append_left _ hl))

end Paths

/-! ### Descending arenas -/

/-- The two clauses of R31 and R21 that bound the paths: an internal node's children are used and below it, and
every node stands at a place of its kind. -/
structure Descending (a : Arena) : Prop where
  children : ∀ i w l r, nodeGet a i = .internal w l r →
    l < i ∧ r < i ∧ isLeafOrInternal (nodeGet a l) = true ∧ isLeafOrInternal (nodeGet a r) = true
  placed : ∀ i, placedAt i (nodeGet a i) = true

theorem descending_of_treeShape {a : Arena} {root : NodeId} (h : TreeShape a root) : Descending a :=
  ⟨h.children, h.placed⟩

section Descending

variable {a : Arena} (ha : Descending a) {i j l r : NodeId} {w : Weight} {p : Code} {d : Nat}
include ha

theorem Descending.internal_le (h : nodeGet a i = .internal w l r) : 256 ≤ i.val := by
  simpa [h, placedAt] using ha.placed i

theorem Descending.leaf_val {b : Byte} (h : nodeGet a i = .leaf b w) : i.val = b.toNat := by
  simpa [h, placedAt] using ha.placed i

/-- The internal nodes of a path have falling ids of 256 and above, so it has at most `i - 255` edges (R94). -/
theorem Descending.length_le (hp : EdgePath a i p j) : p.length ≤ i.val - 255 := by
  induction hp with
  | here => exact Nat.zero_le _
  | left i l r j w p hi hrest ih =>
    obtain ⟨hl, -⟩ := ha.children i w l r hi
    have := ha.internal_le hi
    rw [Fin.lt_def] at hl
    rw [List.length_cons]
    omega
  | right i l r j w p hi hrest ih =>
    obtain ⟨-, hr, -⟩ := ha.children i w l r hi
    have := ha.internal_le hi
    rw [Fin.lt_def] at hr
    rw [List.length_cons]
    omega

theorem Descending.length_le_codeMax (hp : EdgePath a i p j) : p.length ≤ Config.codeMax := by
  have := ha.length_le hp
  have := i.isLt
  simp only [Config.codeMax]
  omega

/-- From one level deeper than the longest path no further node is met. -/
theorem Descending.reach_eq {d' : Nat} (hd : i.val - 255 < d) (hd' : i.val - 255 < d') :
    reach a d i = reach a d' i := by
  induction d generalizing i d' with
  | zero => omega
  | succ d ih =>
    obtain ⟨d', rfl⟩ := Nat.exists_eq_add_one_of_ne_zero (Nat.ne_zero_of_lt hd')
    by_cases hi : Childless a i
    · rw [reach_of_childless hi, reach_of_childless hi]
    · obtain ⟨w, l, r, hi⟩ : ∃ w l r, nodeGet a i = .internal w l r := by simpa [Childless] using hi
      obtain ⟨hl, hr, -⟩ := ha.children i w l r hi
      have hinternal := ha.internal_le hi
      have hbelow (c : NodeId) (hc : c < i) : reach a d c = reach a d' c :=
        have hfall : c.val - 255 < i.val - 255 := by grind
        ih (hfall.trans_le (Nat.le_of_lt_succ hd)) (hfall.trans_le (Nat.le_of_lt_succ hd'))
      rw [reach_of_internal hi, reach_of_internal hi, hbelow l hl, hbelow r hr]

end Descending

/-! ### The walk of GENTABLE (R101) -/

section Walk

variable {a : Arena} {i j l r : NodeId} {w : Weight} {b : Byte} {p path code : Code} {d : Nat}
  {T : CodeTable}

theorem walk_of_leaf (h : nodeGet a i = .leaf b w) :
    walk a (d + 1) i path T = fileSet T b (some path) := by
  rw [walk, h]

theorem walk_of_internal (h : nodeGet a i = .internal w l r) : walk a (d + 1) i path T =
    walk a d r (path ++ [true]) (walk a d l (path ++ [false]) T) := by
  rw [walk, h]

theorem walk_of_placeholder (h : nodeGet a i = .placeholder) : walk a (d + 1) i path T = T := by
  rw [walk, h]

theorem walk_of_unused (h : nodeGet a i = .unused) : walk a (d + 1) i path T = T := by
  rw [walk, h]

/-- The walk leaves the entry of a byte whose leaf it does not meet. -/
theorem fileGet_walk_of_no_leaf (h : ∀ j ∈ reach a d i, ∀ w, nodeGet a j ≠ .leaf b w) :
    fileGet (walk a d i path T) b = fileGet T b := by
  induction d generalizing i path T with
  | zero => rfl
  | succ d ih =>
    cases hi : nodeGet a i with
    | leaf c w =>
      have hcb : b ≠ c := by
        rintro rfl
        exact h i (List.mem_cons_self ..) w hi
      rw [walk_of_leaf hi, fileGet_fileSet, if_neg hcb]
    | internal w l r =>
      rw [reach_of_internal hi] at h
      rw [walk_of_internal hi, ih, ih]
      · exact fun j hj => h j (List.mem_cons_of_mem _ (List.mem_append_left _ hj))
      · exact fun j hj => h j (List.mem_cons_of_mem _ (List.mem_append_right _ hj))
    | placeholder => rw [walk_of_placeholder hi]
    | unused => rw [walk_of_unused hi]

/-- Where no node is met twice, the walk enters for a leaf the path that leads to it. -/
theorem fileGet_walk_of_path (ha : Descending a) (hnodup : (reach a d i).Nodup) (hd : p.length < d)
    (hp : EdgePath a i p j) (hj : nodeGet a j = .leaf b w) :
    fileGet (walk a d i path T) b = some (path ++ p) := by
  induction d generalizing i p path T with
  | zero => omega
  | succ d ih =>
    cases hp with
    | here => rw [walk_of_leaf hj, fileGet_fileSet_self, List.append_nil]
    | left _ l r _ w' p hi hrest =>
      rw [reach_of_internal hi, List.nodup_cons, List.nodup_append] at hnodup
      obtain ⟨-, hl, -, hdisjoint⟩ := hnodup
      have hd := Nat.lt_of_succ_lt_succ hd
      -- The leaf of `b` is below `l`, and below `r` there is no other.
      have hright : ∀ k ∈ reach a d r, ∀ w, nodeGet a k ≠ .leaf b w := fun k hk w hleaf =>
        hdisjoint j (mem_reach_iff.2 ⟨p, hd, hrest⟩) k hk
          (Fin.ext ((ha.leaf_val hj).trans (ha.leaf_val hleaf).symm))
      rw [walk_of_internal hi, fileGet_walk_of_no_leaf hright, ih hl hd hrest, List.append_assoc,
        List.singleton_append]
    | right _ l r _ w' p hi hrest =>
      rw [reach_of_internal hi, List.nodup_cons, List.nodup_append] at hnodup
      obtain ⟨-, -, hr, -⟩ := hnodup
      rw [walk_of_internal hi, ih hr (Nat.lt_of_succ_lt_succ hd) hrest, List.append_assoc,
        List.singleton_append]

/-- In any arena the walk enters codes of at most its path and depth in length. -/
theorem length_lt_of_walk {n : Nat} (hT : ∀ b code, fileGet T b = some code → code.length < n)
    (hn : path.length + d ≤ n) (h : fileGet (walk a d i path T) b = some code) : code.length < n := by
  induction d generalizing i path T b code with
  | zero => exact hT b code h
  | succ d ih =>
    cases hi : nodeGet a i with
    | leaf c w =>
      rw [walk_of_leaf hi, fileGet_fileSet] at h
      split at h
      · cases h; omega
      · exact hT b code h
    | internal w l r =>
      rw [walk_of_internal hi] at h
      refine ih (fun b code hcode => ih hT ?_ hcode) ?_ h
      all_goals
        rw [List.length_append, List.length_singleton]
        omega
    | placeholder => rw [walk_of_placeholder hi] at h; exact hT b code h
    | unused => rw [walk_of_unused hi] at h; exact hT b code h

@[simp] theorem fileGet_emptyTable (b : Byte) : fileGet emptyTable b = none := fileGet_replicate none b

/-- Whatever the arena, a table made by the walk fits CLEN and CODE (R31). -/
theorem codesFit_tableOf (a : Arena) (root : NodeId) : CodesFit (tableOf a root) := fun _ _ h =>
  Nat.le_of_lt_succ (length_lt_of_walk (fun b code hcode => by simp at hcode) (by simp) h)

end Walk

/-! ### The table of a tree (R101, R112) -/

section TreeShape

variable {a : Arena} {root : NodeId} (h : TreeShape a root) {i : NodeId} {w : Weight} {b : Byte} {p code : Code}
include h

/-- Every used node is at the end of a path from the root. -/
theorem exists_edgePath_of_treeShape (hi : nodeGet a i ≠ .unused) : ∃ p, EdgePath a root p i := by
  obtain ⟨p, -, hp⟩ := mem_reach_iff.1 (h.allReached i hi)
  exact ⟨p, hp⟩

theorem fileGet_tableOf_of_path (hp : EdgePath a root p i) (hi : nodeGet a i = .leaf b w) :
    fileGet (tableOf a root) b = some p := by
  have ha := descending_of_treeShape h
  rw [tableOf, fileGet_walk_of_path ha h.noneTwice (Nat.lt_succ_of_le (ha.length_le_codeMax hp)) hp hi,
    List.nil_append]

theorem fileGet_tableOf_eq_none_iff :
    fileGet (tableOf a root) b = none ↔ ∀ i w, nodeGet a i ≠ .leaf b w := by
  constructor
  · intro hnone i w hi
    obtain ⟨p, hp⟩ := exists_edgePath_of_treeShape h (i := i) (by rw [hi]; nofun)
    rw [fileGet_tableOf_of_path h hp hi] at hnone
    cases hnone
  · intro hno
    rw [tableOf, fileGet_walk_of_no_leaf fun j _ => hno j, fileGet_emptyTable]

theorem fileGet_tableOf_eq_some_iff : fileGet (tableOf a root) b = some code ↔
    ∃ i w, EdgePath a root code i ∧ nodeGet a i = .leaf b w := by
  constructor
  · intro hcode
    have hsome := (fileGet_tableOf_eq_none_iff h (b := b)).not.1 (by rw [hcode]; nofun)
    push Not at hsome
    obtain ⟨i, w, hi⟩ := hsome
    obtain ⟨p, hp⟩ := exists_edgePath_of_treeShape h (i := i) (by rw [hi]; nofun)
    rw [fileGet_tableOf_of_path h hp hi] at hcode
    cases hcode
    exact ⟨i, w, hp, hi⟩
  · rintro ⟨i, w, hp, hi⟩
    exact fileGet_tableOf_of_path h hp hi

/-- A code that begins another is that code, of the same byte: its path has ended at a leaf. -/
theorem eq_of_prefix_of_treeShape {b' : Byte} {code' : Code} (hcode : fileGet (tableOf a root) b = some code)
    (hcode' : fileGet (tableOf a root) b' = some code') (hprefix : code <+: code') : b = b' := by
  obtain ⟨i, w, hp, hi⟩ := (fileGet_tableOf_eq_some_iff h).1 hcode
  obtain ⟨j, w', hp', hj⟩ := (fileGet_tableOf_eq_some_iff h).1 hcode'
  obtain ⟨q, rfl⟩ := hprefix
  obtain ⟨-, rfl⟩ := edgePath_of_childless (childless_of_leaf hi) ((edgePath_append hp).1 hp')
  rw [hi] at hj
  cases hj
  rfl

theorem prefixFree_of_treeShape : PrefixFree (tableOf a root) := fun _ _ _ _ hne hcode hcode' hprefix =>
  hne (eq_of_prefix_of_treeShape h hcode hcode' hprefix)

end TreeShape

/-- From a leaf or an internal node any infinite bit sequence leads to a leaf, as the ids fall (R112 (d)). -/
theorem Descending.exists_path_to_leaf {a : Arena} (ha : Descending a) (i : NodeId)
    (hi : isLeafOrInternal (nodeGet a i) = true) (bits : Nat → Bit) :
    ∃ n j b w, EdgePath a i ((List.range n).map bits) j ∧ nodeGet a j = .leaf b w := by
  induction i using WellFoundedLT.induction generalizing bits with
  | ind i ih =>
    cases hnode : nodeGet a i with
    | leaf b w => exact ⟨0, i, b, w, .here i, hnode⟩
    | placeholder | unused => simp [hnode, isLeafOrInternal] at hi
    | internal w l r =>
      obtain ⟨hl, hr, hlused, hrused⟩ := ha.children i w l r hnode
      have hlt : (if bits 0 then r else l) < i := by split <;> assumption
      have hused : isLeafOrInternal (nodeGet a (if bits 0 then r else l)) = true := by split <;> assumption
      obtain ⟨n, j, b, w', hp, hj⟩ := ih _ hlt hused fun k => bits (k + 1)
      refine ⟨n + 1, j, b, w', ?_, hj⟩
      rw [List.range_succ_eq_map, List.map_cons, List.map_map, edgePath_cons_iff hnode]
      exact hp

/-! ### The obligations -/

/-- Settles O35: where the walk meets a leaf it enters the path to it, and no node is met twice. -/
theorem tableHoldsThePathsToTheLeaves : Obligations.TableHoldsThePathsToTheLeaves := fun _ _ h =>
  ⟨fun _ _ => fileGet_tableOf_eq_some_iff h, fun _ => fileGet_tableOf_eq_none_iff h⟩

theorem fileGet_tableOf_of_leaf_root {a : Arena} {root : NodeId} {b : Byte} {w : Weight}
    (h : nodeGet a root = .leaf b w) (c : Byte) :
    fileGet (tableOf a root) c = if c = b then some [] else none := by
  rw [tableOf, walk_of_leaf h, fileGet_fileSet, fileGet_emptyTable]

theorem fileGet_tableOf_of_placeholder_root {a : Arena} {root : NodeId}
    (h : nodeGet a root = .placeholder) (c : Byte) : fileGet (tableOf a root) c = none := by
  rw [tableOf, walk_of_placeholder h, fileGet_emptyTable]

/-- Settles O36: the walk from a leaf or a placeholder ends at its first node. -/
theorem degenerateTreesGiveDegenerateTables : Obligations.DegenerateTreesGiveDegenerateTables :=
  ⟨fun _ _ _ _ => fileGet_tableOf_of_leaf_root, fun _ _ => fileGet_tableOf_of_placeholder_root,
    fun _ hs htree hroot => ⟨_, fileGet_tableOf_of_placeholder_root hroot,
      CodeTables.exec_gentable_of_tree hs htree⟩⟩

end Sys2Proof.Trees

/-! The forest BUILD makes its tree of: what every merge keeps of the arena and the work list, the tree that is
left, and that FREQ alone fixes it (spec/42_tree_builder.md rules R90 to R95). -/

namespace Sys2Proof.Forests

open Sys2Proof.Machine Sys2Proof.Certificates Sys2Proof.TreeBuilder Sys2Proof.Counting
  Sys2Proof.Trees

/-! ### The counts -/

/-- The number of nonzero counts, `m` of R94. -/
def countOfSymbols (f : FreqFile) : Nat := f.toList.countP fun c => c != 0#64

/-- The sum of all counts (R94). -/
def totalCount (f : FreqFile) : Nat := (f.toList.map (·.toNat)).sum

/-- The number a node weighs. -/
def weightAt (a : Arena) (i : NodeId) : Nat := (nodeGet a i).weight.toNat

theorem totalCount_lt (f : FreqFile) : totalCount f < 2 ^ 72 := by
  have hle : totalCount f ≤ (f.toList.map (·.toNat)).length • (2 ^ 64 - 1) :=
    List.sum_le_card_nsmul _ _ fun n hn => by
      obtain ⟨c, -, rfl⟩ := List.mem_map.1 hn
      exact Nat.le_sub_one_of_lt c.isLt
  rw [List.length_map, Vector.length_toList, smul_eq_mul] at hle
  exact hle.trans_lt (by decide)

theorem leafAt_of_lt {f : FreqFile} {i : NodeId} (h : i.val < 256) : leafAt f i =
    if f[i.val] = 0#64 then .unused else .leaf (BitVec.ofNat 8 i.val) (f[i.val].setWidth 72) := by
  rw [leafAt, dif_pos h, BitVec.ofNat_toNat]

/-- A leaf weighs its count, an absent one nothing. -/
theorem weight_leafAt {f : FreqFile} {i : NodeId} (h : i.val < 256) :
    (leafAt f i).weight.toNat = f[i.val].toNat := by
  rw [leafAt_of_lt h]
  split
  case isTrue hzero => rw [hzero]; rfl
  case isFalse => exact BitVec.toNat_setWidth_of_le (by decide)

theorem length_leafIds (f : FreqFile) : (leafIds f).length = countOfSymbols f := by
  rw [leafIds, List.length_filterMap_eq_countP, countOfSymbols]
  conv_rhs => rw [← List.zipIdx_map_fst 0 f.toList, List.countP_map]
  refine List.countP_congr fun p _ => ?_
  by_cases hp : p.1 = 0#64 <;> simp [hp]

/-- A sum over the results of `filterMap` is one over its arguments, if the dropped ones count nothing. -/
theorem sum_map_filterMap {α β : Type} {g : α → Option β} {v : β → Nat} {u : α → Nat} {l : List α}
    (hsome : ∀ x ∈ l, ∀ y, g x = some y → v y = u x) (hnone : ∀ x ∈ l, g x = none → u x = 0) :
    ((l.filterMap g).map v).sum = (l.map u).sum := by
  induction l with
  | nil => rfl
  | cons x l ih =>
    obtain ⟨hx, hsome⟩ := List.forall_mem_cons.1 hsome
    obtain ⟨hx', hnone⟩ := List.forall_mem_cons.1 hnone
    rw [List.map_cons, List.sum_cons, ← ih hsome hnone]
    cases hg : g x with
    | none => rw [List.filterMap_cons_none hg, hx' hg, Nat.zero_add]
    | some y => rw [List.filterMap_cons_some hg, List.map_cons, List.sum_cons, hx y hg]

theorem sum_weight_leafIds (f : FreqFile) :
    ((leafIds f).map fun i => (leafAt f i).weight.toNat).sum = totalCount f := by
  rw [leafIds, sum_map_filterMap (u := fun p => p.1.toNat), totalCount]
  · conv_rhs => rw [← List.zipIdx_map_fst 0 f.toList, List.map_map]
    rfl
  · rintro ⟨c, k⟩ hmem i hi
    rw [List.mk_mem_zipIdx_iff_getElem?, List.getElem?_eq_some_iff] at hmem
    obtain ⟨hk, rfl⟩ := hmem
    rw [Vector.length_toList] at hk
    obtain ⟨-, hi⟩ := Option.ite_none_left_eq_some.1 hi
    obtain rfl := Option.some.inj hi
    have hlt : k < 511 := hk.trans (by decide)
    rw [weight_leafAt ((val_ofNat_of_lt hk).trans_lt hk)]
    simp [Nat.mod_eq_of_lt hlt]
  · intro p _ hp
    have hzero : p.1 = 0#64 := by simpa using hp
    rw [hzero]
    rfl

/-! ### The invariant of the merges -/

/-- The nodes met from the members of a work list, each with what is below it. -/
def nodesBelow (a : Arena) (lst : List NodeId) : List NodeId := lst.flatMap (reach a 256)

/-- What holds before and after every merge of a work list of leaves and internal nodes: the leaves are those of
step 1, the internal nodes are 256 up to `next` and weigh what their children do, the members are the roots
of disjoint trees that hold every used node, and they weigh all counts together. -/
structure Forest (f : FreqFile) (a : Arena) (lst : List NodeId) (next : Nat) : Prop where
  leaves : ∀ i, i.val < 256 → nodeGet a i = leafAt f i
  internals : ∀ i, 256 ≤ i.val → i.val < next → ∃ w l r, nodeGet a i = .internal w l r
  unused : ∀ i, 256 ≤ i.val → next ≤ i.val → nodeGet a i = .unused
  children : ∀ i w l r, nodeGet a i = .internal w l r →
    l < i ∧ r < i ∧ nodeGet a l ≠ .unused ∧ nodeGet a r ≠ .unused
  weights : ∀ i w l r, nodeGet a i = .internal w l r → w.toNat = weightAt a l + weightAt a r
  disjoint : (nodesBelow a lst).Nodup
  covers : ∀ i, i ∈ nodesBelow a lst ↔ nodeGet a i ≠ .unused
  total : (lst.map (weightAt a)).sum = totalCount f
  size : next + lst.length = 256 + countOfSymbols f
  next_ge : 256 ≤ next

section Invariant

variable {f : FreqFile} {a : Arena} {lst : List NodeId} {next : Nat} (h : Forest f a lst next) {i : NodeId}
include h

/-- A used node is a leaf below 256 or an internal node at 256 or above. -/
theorem Forest.cases (hi : nodeGet a i ≠ .unused) :
    (i.val < 256 ∧ ∃ w, nodeGet a i = .leaf (BitVec.ofNat 8 i.val) w ∧ 0 < w.toNat) ∨
    (256 ≤ i.val ∧ i.val < next ∧ ∃ w l r, nodeGet a i = .internal w l r) := by
  by_cases hlt : i.val < 256
  · refine .inl ⟨hlt, ?_⟩
    have hleaf := h.leaves i hlt
    have hweight := weight_leafAt (f := f) hlt
    rw [leafAt_of_lt hlt] at hleaf hweight
    split at hleaf
    case isTrue => exact absurd hleaf hi
    case isFalse hne =>
      rw [if_neg hne] at hweight
      refine ⟨_, hleaf, ?_⟩
      rw [show (f[i.val].setWidth 72).toNat = f[i.val].toNat from hweight]
      exact Nat.pos_of_ne_zero fun hzero => hne (BitVec.eq_of_toNat_eq hzero)
  · have hge : 256 ≤ i.val := not_lt.1 hlt
    have hnext : i.val < next := by
      by_contra hnext
      exact hi (h.unused i hge (not_lt.1 hnext))
    exact .inr ⟨hge, hnext, h.internals i hge hnext⟩

theorem Forest.isLeafOrInternal (hi : nodeGet a i ≠ .unused) : isLeafOrInternal (nodeGet a i) = true := by
  obtain ⟨-, w, hw, -⟩ | ⟨-, -, w, l, r, hw⟩ := h.cases hi <;> rw [hw] <;> rfl

theorem Forest.val_lt_next (hi : nodeGet a i ≠ .unused) : i.val < next := by
  obtain ⟨hlt, -⟩ | ⟨-, hlt, -⟩ := h.cases hi
  · exact hlt.trans_le h.next_ge
  · exact hlt

theorem Forest.descending : Descending a where
  children i w l r hi := by
    obtain ⟨hl, hr, hlused, hrused⟩ := h.children i w l r hi
    exact ⟨hl, hr, h.isLeafOrInternal hlused, h.isLeafOrInternal hrused⟩
  placed i := by
    by_cases hi : nodeGet a i = .unused
    · rw [hi]; rfl
    · obtain ⟨hlt, w, hw, -⟩ | ⟨hge, -, w, l, r, hw⟩ := h.cases hi
      · simp [hw, placedAt, Nat.mod_eq_of_lt hlt]
      · simpa [hw, placedAt] using hge

theorem Forest.used_of_mem (hi : i ∈ lst) : nodeGet a i ≠ .unused :=
  (h.covers i).1 (List.mem_flatMap.2 ⟨i, hi, List.mem_cons_self ..⟩)

/-- The order of the members is of no matter. -/
theorem Forest.perm {lst' : List NodeId} (hperm : lst'.Perm lst) : Forest f a lst' next := by
  have hbelow : (nodesBelow a lst').Perm (nodesBelow a lst) := hperm.flatMap_right _
  exact
    { h with
      disjoint := hbelow.nodup_iff.2 h.disjoint
      covers := fun i => hbelow.mem_iff.trans (h.covers i)
      total := (hperm.map _).sum_eq.trans h.total
      size := hperm.length_eq ▸ h.size }

end Invariant

/-! ### A merge keeps the invariant (R93) -/

section Merge

variable {f : FreqFile} {a : Arena} {front : List NodeId} {l r : NodeId} {n : NodeId}
  (h : Forest f a (front ++ [l, r]) n.val)

/-- The arena after the merge of `l` and `r` into node `n`. -/
def merged (a : Arena) (l r n : NodeId) : Arena := nodeSet a n (mergedNode a l r)

theorem nodeGet_merged_self (a : Arena) (l r n : NodeId) : nodeGet (merged a l r n) n = mergedNode a l r := by
  rw [merged, nodeGet_nodeSet, if_pos rfl]

theorem nodeGet_merged_of_ne {i : NodeId} (hi : i ≠ n) : nodeGet (merged a l r n) i = nodeGet a i := by
  rw [merged, nodeGet_nodeSet, if_neg hi]

include h

/-- The new node's place was free. -/
theorem Forest.ne_next {i : NodeId} (hi : nodeGet a i ≠ .unused) : i ≠ n :=
  Fin.ne_of_lt (h.val_lt_next hi)

theorem Forest.left_used : nodeGet a l ≠ .unused := h.used_of_mem (by simp)

theorem Forest.right_used : nodeGet a r ≠ .unused := h.used_of_mem (by simp)

theorem Forest.nodeGet_merged {i : NodeId} (hi : nodeGet a i ≠ .unused) :
    nodeGet (merged a l r n) i = nodeGet a i :=
  nodeGet_merged_of_ne (h.ne_next hi)

theorem Forest.weightAt_merged {i : NodeId} (hi : nodeGet a i ≠ .unused) :
    weightAt (merged a l r n) i = weightAt a i :=
  congrArg (fun x => x.weight.toNat) (h.nodeGet_merged hi)

/-- Below a member the merge changes nothing. -/
theorem Forest.reach_merged {i : NodeId} (hi : i ∈ front ++ [l, r]) {d : Nat}
    (hd : reach a d i = reach a 256 i) : reach (merged a l r n) d i = reach a 256 i := by
  rw [merged, reach_nodeSet, hd]
  rw [hd]
  exact fun hmem => h.ne_next ((h.covers n).1 (List.mem_flatMap.2 ⟨i, hi, hmem⟩)) rfl

/-- The exact sum of the two weights fits, as it is at most the sum of all counts (R94). -/
theorem Forest.toNat_weight_mergedNode :
    (mergedNode a l r).weight.toNat = weightAt a l + weightAt a r := by
  have htotal := h.total
  rw [List.map_append, List.sum_append] at htotal
  simp only [List.map_cons, List.map_nil, List.sum_cons, List.sum_nil, Nat.add_zero] at htotal
  have hlt := totalCount_lt f
  exact BitVec.toNat_add_of_lt (show weightAt a l + weightAt a r < 2 ^ 72 by omega)

theorem Forest.children_merged : ∀ i w l' r', nodeGet (merged a l r n) i = .internal w l' r' →
    l' < i ∧ r' < i ∧ nodeGet (merged a l r n) l' ≠ .unused ∧ nodeGet (merged a l r n) r' ≠ .unused ∧
      w.toNat = weightAt (merged a l r n) l' + weightAt (merged a l r n) r' := by
  intro i w l' r' hi
  by_cases hin : i = n
  · subst hin
    rw [nodeGet_merged_self] at hi
    obtain ⟨hw, rfl, rfl⟩ := Node.internal.inj hi
    rw [h.nodeGet_merged h.left_used, h.nodeGet_merged h.right_used, h.weightAt_merged h.left_used,
      h.weightAt_merged h.right_used, ← h.toNat_weight_mergedNode, ← hw]
    exact ⟨h.val_lt_next h.left_used, h.val_lt_next h.right_used, h.left_used, h.right_used, rfl⟩
  · rw [nodeGet_merged_of_ne hin] at hi
    obtain ⟨hl, hr, hlused, hrused⟩ := h.children i w l' r' hi
    rw [h.nodeGet_merged hlused, h.nodeGet_merged hrused, h.weightAt_merged hlused, h.weightAt_merged hrused]
    exact ⟨hl, hr, hlused, hrused, h.weights i w l' r' hi⟩

/-- The new node stands above all that was below `l` and `r`. -/
theorem Forest.nodesBelow_merged : (nodesBelow (merged a l r n) (front ++ [n])).Perm
    (n :: nodesBelow a (front ++ [l, r])) := by
  have hfront : front.flatMap (reach (merged a l r n) 256) = front.flatMap (reach a 256) :=
    List.flatMap_congr fun i hi => h.reach_merged (List.mem_append_left _ hi) rfl
  have hchild (i : NodeId) (hi : i ∈ front ++ [l, r]) : reach (merged a l r n) 255 i = reach a 256 i := by
    have hlt := h.val_lt_next (h.used_of_mem hi)
    exact h.reach_merged hi (h.descending.reach_eq (by grind) (by grind))
  have hnew : reach (merged a l r n) 256 n = n :: (reach a 256 l ++ reach a 256 r) := by
    rw [reach_of_internal (nodeGet_merged_self a l r n), hchild l (by simp), hchild r (by simp)]
  rw [nodesBelow, List.flatMap_append, hfront, nodesBelow, List.flatMap_append]
  simp only [List.flatMap_cons, List.flatMap_nil, List.append_nil, hnew]
  exact List.perm_middle

theorem Forest.merge : Forest f (merged a l r n) (front ++ [n]) (n.val + 1) where
  leaves i hi := by
    rw [nodeGet_merged_of_ne fun hin => (hin ▸ hi).not_ge h.next_ge, h.leaves i hi]
  internals i hge hlt := by
    by_cases hin : i = n
    · rw [hin, nodeGet_merged_self]
      exact ⟨_, l, r, rfl⟩
    · rw [nodeGet_merged_of_ne hin]
      exact h.internals i hge (lt_of_le_of_ne (Nat.le_of_lt_succ hlt) (Fin.val_ne_of_ne hin))
  unused i hge hle := by
    rw [nodeGet_merged_of_ne (Fin.ne_of_gt hle), h.unused i hge (Nat.le_of_succ_le hle)]
  children i w l' r' hi := by
    obtain ⟨hl, hr, hlused, hrused, -⟩ := h.children_merged i w l' r' hi
    exact ⟨hl, hr, hlused, hrused⟩
  weights i w l' r' hi := by
    obtain ⟨-, -, -, -, hw⟩ := h.children_merged i w l' r' hi
    exact hw
  disjoint := by
    rw [h.nodesBelow_merged.nodup_iff, List.nodup_cons]
    exact ⟨fun hmem => h.ne_next ((h.covers n).1 hmem) rfl, h.disjoint⟩
  covers i := by
    rw [h.nodesBelow_merged.mem_iff, List.mem_cons, h.covers i]
    by_cases hin : i = n
    · subst hin
      rw [nodeGet_merged_self]
      exact iff_of_true (.inl rfl) nofun
    · rw [nodeGet_merged_of_ne hin, or_iff_right hin]
  total := by
    have hfront : front.map (weightAt (merged a l r n)) = front.map (weightAt a) :=
      List.map_congr_left fun i hi => h.weightAt_merged (h.used_of_mem (List.mem_append_left _ hi))
    have hnew : weightAt (merged a l r n) n = weightAt a l + weightAt a r := by
      rw [weightAt, nodeGet_merged_self, h.toNat_weight_mergedNode]
    rw [← h.total, List.map_append, List.map_append, hfront]
    simp [hnew]
  size := by
    have hsize := h.size
    simp only [List.length_append, List.length_cons, List.length_nil] at hsize ⊢
    omega
  next_ge := Nat.le_succ_of_le h.next_ge

end Merge

/-- The merges lead from a forest to a single tree. -/
theorem Forest.of_merges {f : FreqFile} {a b : Arena} {lst : List NodeId} {next : Nat} {root : NodeId}
    (h : Forest f a lst next) (hmerges : Merges a lst next b root) :
    Forest f b [root] (255 + countOfSymbols f) := by
  induction hmerges with
  | done a root next =>
    have hsize := h.size
    rw [List.length_singleton] at hsize
    have hnext : next = 255 + countOfSymbols f := by omega
    exact hnext ▸ h
  | merge a b front lst l r root next hnext _ _ hperm _ ih =>
    exact ih ((Forest.merge (n := ⟨next, hnext⟩) h).perm hperm)

/-! ### The forest before the merges -/

theorem childless_leafArena (f : FreqFile) (i : NodeId) : Childless (leafArena f) i := by
  intro w l r hi
  rw [nodeGet_leafArena, leafAt] at hi
  split at hi
  · split at hi <;> cases hi
  · cases hi

theorem nodesBelow_leafArena (f : FreqFile) (lst : List NodeId) : nodesBelow (leafArena f) lst = lst := by
  have hreach : reach (leafArena f) 256 = fun i => [i] :=
    funext fun i => reach_of_childless (childless_leafArena f i) 255
  rw [nodesBelow, hreach, List.flatMap_singleton']

theorem forest_leafArena (f : FreqFile) : Forest f (leafArena f) (leafIds f) 256 where
  leaves i _ := nodeGet_leafArena f i
  internals _ hge hlt := absurd hlt hge.not_gt
  unused i hge _ := by rw [nodeGet_leafArena, leafAt, dif_neg hge.not_gt]
  children i w l r hi := absurd hi (childless_leafArena f i w l r)
  weights i w l r hi := absurd hi (childless_leafArena f i w l r)
  disjoint := by
    rw [nodesBelow_leafArena]
    exact nodup_leafIds f
  covers i := by rw [nodesBelow_leafArena, mem_leafIds, nodeGet_leafArena]
  total := by
    rw [← sum_weight_leafIds]
    refine congrArg List.sum (List.map_congr_left fun i _ => ?_)
    rw [weightAt, nodeGet_leafArena]
  size := by rw [length_leafIds]
  next_ge := le_rfl

/-! ### FREQ fixes the tree (R95) -/

theorem merges_unique {a b b' : Arena} {lst : List NodeId} {next : Nat} {root root' : NodeId}
    (h : Merges a lst next b root) (h' : Merges a lst next b' root') : b = b' ∧ root = root' := by
  induction h with
  | done a root next =>
    generalize hlst : [root] = lst at h'
    cases h' with
    | done => exact ⟨rfl, List.head_eq_of_cons_eq hlst⟩
    | merge _ _ front _ l r =>
      have hlength := congrArg List.length hlst
      simp at hlength
  | merge a b front lst l r root next hnext _ hsorted hperm _ ih =>
    generalize hlst : front ++ [l, r] = before at h'
    cases h' with
    | done => 
      have hlength := congrArg List.length hlst
      simp at hlength
    | merge _ _ front' lst' l' r' _ _ _ _ hsorted' hperm' hrest' =>
      obtain ⟨rfl, hlr⟩ := List.append_inj' hlst rfl
      cases hlr
      rw [eq_of_sortedNodes_of_perm hsorted' hsorted (hperm'.trans hperm.symm)] at hrest'
      exact ih hrest'

/-- Two work lists sorted by the same weights, of the same nodes, are one. -/
theorem eq_of_sortedNodes_of_mem_iff {a : Arena} {lst lst' : List NodeId} (h : SortedNodes a lst)
    (h' : SortedNodes a lst') (hmem : ∀ i, i ∈ lst ↔ i ∈ lst') : lst = lst' :=
  eq_of_sortedNodes_of_perm h h'
    ((List.perm_ext_iff_of_nodup (nodup_of_sortedNodes h) (nodup_of_sortedNodes h')).2 hmem)

theorem buildRelates_unique {f : FreqFile} {b b' : Arena} {root root' : NodeId}
    (h : BuildRelates f b root) (h' : BuildRelates f b' root') : b = b' ∧ root = root' := by
  obtain ⟨a, lst, next, hstart, hsorted, hmerges⟩ := h
  obtain ⟨a', lst', next', hstart', hsorted', hmerges'⟩ := h'
  obtain ⟨hzero, rfl, rfl, ha⟩ | ⟨⟨c, hc⟩, rfl, ha, hlst⟩ := hstart <;>
    obtain ⟨hzero', rfl, rfl, ha'⟩ | ⟨⟨c', hc'⟩, rfl, ha', hlst'⟩ := hstart'
  · obtain rfl : a = a' := arena_ext fun i => (ha i).trans (ha' i).symm
    exact merges_unique hmerges hmerges'
  · exact absurd (hzero c') hc'
  · exact absurd (hzero' c) hc
  · obtain rfl : a = a' := arena_ext fun i => (ha i).trans (ha' i).symm
    obtain rfl := eq_of_sortedNodes_of_mem_iff hsorted hsorted' fun i => (hlst i).trans (hlst' i).symm
    exact merges_unique hmerges hmerges'

theorem eq_buildTree_of_buildRelates {f : FreqFile} {a : Arena} {root : NodeId} (h : BuildRelates f a root) :
    (a, root) = buildTree f :=
  Prod.ext_iff.2 (buildRelates_unique h (buildRelates_buildTree f))

/-! ### The tree BUILD makes -/

theorem exists_ne_zero_iff {f : FreqFile} : (∃ c, fileGet f c ≠ 0#64) ↔ leafIds f ≠ [] := by
  rw [Ne, leafIds_eq_nil_iff, not_forall]

theorem forest_buildTree {f : FreqFile} (h : ∃ c, fileGet f c ≠ 0#64) :
    Forest f (buildTree f).1 [(buildTree f).2] (255 + countOfSymbols f) := by
  obtain ⟨a, lst, next, ⟨hzero, -⟩ | ⟨-, rfl, ha, hlst⟩, hsorted, hmerges⟩ := buildRelates_buildTree f
  · obtain ⟨c, hc⟩ := h
    exact absurd (hzero c) hc
  · obtain rfl : a = leafArena f := arena_ext fun i => (ha i).trans (nodeGet_leafArena f i).symm
    have hperm : lst.Perm (leafIds f) :=
      (List.perm_ext_iff_of_nodup (nodup_of_sortedNodes hsorted) (nodup_leafIds f)).2 fun i => by
        rw [hlst, ha, mem_leafIds]
    exact ((forest_leafArena f).perm hperm).of_merges hmerges

/-- R91: under no counts the tree is the placeholder alone. -/
theorem buildTree_of_zero {f : FreqFile} (h : ∀ b, fileGet f b = 0#64) :
    buildTree f = (nodeSet (leafArena f) 256 .placeholder, 256) :=
  (eq_buildTree_of_buildRelates ⟨_, [256], 257,
    .inl ⟨h, rfl, rfl, nodeGet_placeholderArena (leafIds_eq_nil_iff.2 h)⟩, List.pairwise_singleton _ _,
    .done _ _ _⟩).symm

theorem nodeGet_buildTree_of_zero {f : FreqFile} (h : ∀ b, fileGet f b = 0#64) (i : NodeId) :
    nodeGet (buildTree f).1 i = if i = 256 then .placeholder else .unused := by
  rw [buildTree_of_zero h, nodeGet_placeholderArena (leafIds_eq_nil_iff.2 h)]

/-- The id of a byte's leaf (R21). -/
def leafId (b : Byte) : NodeId := ⟨b.toNat, b.isLt.trans (by decide)⟩

theorem leafAt_leafId (f : FreqFile) (b : Byte) : leafAt f (leafId b) =
    if fileGet f b = 0#64 then .unused else .leaf b ((fileGet f b).setWidth 72) := by
  rw [leafAt_of_lt b.isLt]
  simp only [leafId, BitVec.ofNat_toNat, BitVec.setWidth_eq]
  rfl

theorem leafAt_eq_unused_of_forall {f : FreqFile} {b : Byte} (h : ∀ c, c ≠ b → fileGet f c = 0#64)
    {i : NodeId} (hi : i.val ≠ b.toNat) : leafAt f i = .unused := by
  by_contra hused
  obtain ⟨hlt, hne⟩ := leafAt_ne_unused_iff.1 hused
  have hc : BitVec.ofNat 8 i.val ≠ b := by
    rintro rfl
    exact hi (by simp [Nat.mod_eq_of_lt hlt])
  have hzero := h _ hc
  simp [fileGet, Nat.mod_eq_of_lt hlt] at hzero
  exact hne hzero

theorem nodeGet_leafArena_of_single {f : FreqFile} {b : Byte} (hb : fileGet f b ≠ 0#64)
    (h : ∀ c, c ≠ b → fileGet f c = 0#64) (i : NodeId) : nodeGet (leafArena f) i =
      if i.val = b.toNat then .leaf b ((fileGet f b).setWidth 72) else .unused := by
  rw [nodeGet_leafArena]
  split
  case isTrue hi =>
    obtain rfl : i = leafId b := Fin.ext hi
    rw [leafAt_leafId, if_neg hb]
  case isFalse hi => exact leafAt_eq_unused_of_forall h hi

/-- R90's corner case: under one nonzero count the tree is its leaf alone. -/
theorem buildTree_of_single {f : FreqFile} {b : Byte} (hb : fileGet f b ≠ 0#64)
    (h : ∀ c, c ≠ b → fileGet f c = 0#64) : buildTree f = (leafArena f, leafId b) := by
  refine (eq_buildTree_of_buildRelates ⟨leafArena f, [leafId b], 256,
    .inr ⟨⟨b, hb⟩, rfl, nodeGet_leafArena f, fun i => ?_⟩, List.pairwise_singleton _ _,
    .done _ _ _⟩).symm
  rw [List.mem_singleton, nodeGet_leafArena_of_single hb h, Fin.ext_iff]
  split
  case isTrue hi => exact iff_of_true hi nofun
  case isFalse hi => exact iff_of_false hi (not_not.2 rfl)

/-! ### The shape of the tree (R31) -/

theorem treeShape_of_zero {f : FreqFile} (h : ∀ b, fileGet f b = 0#64) :
    TreeShape (buildTree f).1 (buildTree f).2 := by
  have hroot : (buildTree f).2 = 256 := by rw [buildTree_of_zero h]
  have hnode := nodeGet_buildTree_of_zero h
  have hchildless : ∀ i, Childless (buildTree f).1 i := fun i w l r hi => by
    rw [hnode] at hi
    split at hi <;> cases hi
  have hreach : reach (buildTree f).1 (Config.codeMax + 1) (buildTree f).2 = [256] := by
    rw [reach_of_childless (hchildless _), hroot]
  refine ⟨?_, fun i w l r hi => absurd hi (hchildless i w l r), ?_, fun i hi => ?_, fun i => ?_⟩
  · rw [hroot, hnode, if_pos rfl]
    nofun
  · rw [hreach]
    exact List.nodup_singleton _
  · rw [hreach, List.mem_singleton]
    by_contra hne
    exact hi (by rw [hnode, if_neg hne])
  · rw [hnode]
    split
    case isTrue hi => rw [hi]; rfl
    case isFalse => rfl

theorem Forest.treeShape {f : FreqFile} {a : Arena} {root : NodeId} {next : Nat}
    (h : Forest f a [root] next) : TreeShape a root where
  rootUsed := h.used_of_mem (List.mem_singleton_self root)
  children := h.descending.children
  noneTwice := by simpa [nodesBelow] using h.disjoint
  allReached i hi := by simpa [nodesBelow] using (h.covers i).2 hi
  placed := h.descending.placed

theorem treeShape_buildTree (f : FreqFile) : TreeShape (buildTree f).1 (buildTree f).2 := by
  by_cases h : ∀ b, fileGet f b = 0#64
  · exact treeShape_of_zero h
  · exact (forest_buildTree (not_forall.1 h)).treeShape

/-! ### The weights of the tree (R94) -/

section Weights

variable {f : FreqFile} {a : Arena} {lst : List NodeId} {next : Nat} (h : Forest f a lst next) {i j : NodeId}
  {p : Code}
include h

theorem Forest.weightAt_pos (hi : nodeGet a i ≠ .unused) : 0 < weightAt a i := by
  induction i using WellFoundedLT.induction with
  | ind i ih =>
    obtain ⟨-, w, hw, hpos⟩ | ⟨-, -, w, l, r, hw⟩ := h.cases hi
    · rwa [weightAt, hw]
    · obtain ⟨hl, -, hlused, -⟩ := h.children i w l r hw
      have hsum := h.weights i w l r hw
      have hleft := ih l hl hlused
      rw [weightAt, hw]
      exact hsum ▸ Nat.add_pos_left hleft _

/-- Each node weighs less than the nodes above it, as its sibling weighs something. -/
theorem Forest.weightAt_lt_of_edgePath (hp : EdgePath a i p j) : j = i ∨ weightAt a j < weightAt a i := by
  induction hp with
  | here => exact .inl rfl
  | left i l r j w p hi _ ih =>
    obtain ⟨-, -, -, hr⟩ := h.children i w l r hi
    have hsum : weightAt a i = weightAt a l + weightAt a r := by
      rw [weightAt, hi]; exact h.weights i w l r hi
    have hright := h.weightAt_pos hr
    have hle : weightAt a j ≤ weightAt a l := ih.elim (fun heq => heq ▸ le_rfl) le_of_lt
    exact .inr (by omega)
  | right i l r j w p hi _ ih =>
    obtain ⟨-, -, hl, -⟩ := h.children i w l r hi
    have hsum : weightAt a i = weightAt a l + weightAt a r := by
      rw [weightAt, hi]; exact h.weights i w l r hi
    have hleft := h.weightAt_pos hl
    have hle : weightAt a j ≤ weightAt a r := ih.elim (fun heq => heq ▸ le_rfl) le_of_lt
    exact .inr (by omega)

end Weights

section Root

variable {f : FreqFile} {a : Arena} {root : NodeId} {next : Nat} (h : Forest f a [root] next)
include h

theorem Forest.weightAt_root : weightAt a root = totalCount f := by
  simpa using h.total

theorem Forest.weightAt_lt_root {i : NodeId} (hi : i ≠ root) : weightAt a i < weightAt a root := by
  by_cases hused : nodeGet a i = .unused
  · rw [weightAt, hused]
    exact h.weightAt_pos h.treeShape.rootUsed
  · obtain ⟨p, hp⟩ := exists_edgePath_of_treeShape h.treeShape hused
    exact (h.weightAt_lt_of_edgePath hp).resolve_left hi

theorem Forest.internal_iff (i : NodeId) :
    (∃ w l r, nodeGet a i = .internal w l r) ↔ 256 ≤ i.val ∧ i.val < next := by
  constructor
  · rintro ⟨w, l, r, hi⟩
    exact ⟨h.descending.internal_le hi, h.val_lt_next (by rw [hi]; nofun)⟩
  · exact fun ⟨hge, hlt⟩ => h.internals i hge hlt

end Root

theorem countOfSymbols_pos_iff {f : FreqFile} : 1 ≤ countOfSymbols f ↔ ∃ c, fileGet f c ≠ 0#64 := by
  rw [exists_ne_zero_iff, ← length_leafIds, Nat.one_le_iff_ne_zero, Ne, List.length_eq_zero_iff]

theorem Forest.length_code_le {f : FreqFile} {a : Arena} {root : NodeId}
    (h : Forest f a [root] (255 + countOfSymbols f)) {b : Byte} {code : Code}
    (hcode : fileGet (tableOf a root) b = some code) : code.length ≤ countOfSymbols f - 1 := by
  obtain ⟨i, w, hp, -⟩ := (fileGet_tableOf_eq_some_iff h.treeShape).1 hcode
  have hlength := h.descending.length_le hp
  have hroot := h.val_lt_next h.treeShape.rootUsed
  grind

/-- The root weighs what was counted (R94). -/
theorem weightAt_root_countBytes {x : List Byte} (hx : x.length < 2 ^ 64) :
    weightAt (buildTree (countBytes x)).1 (buildTree (countBytes x)).2 = x.length := by
  by_cases h : ∀ b, fileGet (countBytes x) b = 0#64
  · have hnil : x = [] := List.eq_nil_iff_forall_not_mem.2 fun b hb =>
      (countBytes_ne_zero_iff hx).2 hb (h b)
    have hroot : (buildTree (countBytes x)).2 = 256 := by rw [buildTree_of_zero h]
    rw [hroot, weightAt, nodeGet_buildTree_of_zero h, if_pos rfl, hnil]
    rfl
  · rw [(forest_buildTree (not_forall.1 h)).weightAt_root]
    exact sum_countBytes hx

/-! ### The table of the tree (R112) -/

theorem Forest.leaf_iff {f : FreqFile} {a : Arena} {lst : List NodeId} {next : Nat} (h : Forest f a lst next)
    {b : Byte} : (∃ i w, nodeGet a i = .leaf b w) ↔ fileGet f b ≠ 0#64 := by
  have hleaf := h.leaves (leafId b) b.isLt
  rw [leafAt_leafId] at hleaf
  constructor
  · rintro ⟨i, w, hi⟩ hzero
    have hval : i.val = b.toNat := h.descending.leaf_val hi
    obtain rfl : i = leafId b := Fin.ext hval
    rw [hi, if_pos hzero] at hleaf
    cases hleaf
  · intro hne
    rw [if_neg hne] at hleaf
    exact ⟨_, _, hleaf⟩

theorem fileGet_tableOf_buildTree_eq_none_iff {f : FreqFile} {b : Byte} :
    fileGet (tableOf (buildTree f).1 (buildTree f).2) b = none ↔ fileGet f b = 0#64 := by
  rw [fileGet_tableOf_eq_none_iff (treeShape_buildTree f)]
  by_cases h : ∀ c, fileGet f c = 0#64
  · refine iff_of_true (fun i w hi => ?_) (h b)
    rw [nodeGet_buildTree_of_zero h] at hi
    split at hi <;> cases hi
  · rw [← not_iff_not, ← Ne, ← (forest_buildTree (not_forall.1 h)).leaf_iff]
    push Not
    rfl

/-- A zero-length code is that of a root that is a leaf, under which there is no other (R112 (c)). -/
theorem fileGet_eq_none_of_nil {a : Arena} {root : NodeId} (h : TreeShape a root) {b c : Byte}
    (hnil : fileGet (tableOf a root) b = some []) (hc : c ≠ b) : fileGet (tableOf a root) c = none := by
  obtain ⟨i, w, hp, hi⟩ := (fileGet_tableOf_eq_some_iff h).1 hnil
  cases hp
  rw [fileGet_tableOf_of_leaf_root hi, if_neg hc]

/-- Every infinite bit sequence begins with exactly one code (R112 (d)). -/
theorem existsUnique_code {a : Arena} {root : NodeId} (h : TreeShape a root)
    (hroot : isLeafOrInternal (nodeGet a root) = true) (bits : Nat → Bit) :
    ∃! b, ∃ code, fileGet (tableOf a root) b = some code ∧
      ∀ j (hj : j < code.length), code[j] = bits j := by
  obtain ⟨n, i, b, w, hp, hi⟩ := (descending_of_treeShape h).exists_path_to_leaf root hroot bits
  refine ⟨b, ⟨_, fileGet_tableOf_of_path h hp hi, fun j hj => by simp⟩, ?_⟩
  rintro c ⟨code, hcode, hbits⟩
  have hcode' : code = (List.range code.length).map bits :=
    List.ext_getElem (by simp) fun j hj _ => by simp [hbits j hj]
  have hprefix {m n : Nat} (hmn : m ≤ n) : (List.range m).map bits <+: (List.range n).map bits :=
    (List.prefix_iff_eq_take.2 (by simp [List.take_range, hmn])).map bits
  rw [hcode'] at hcode
  obtain hle | hle := Nat.le_total code.length n
  · exact eq_of_prefix_of_treeShape h hcode (fileGet_tableOf_of_path h hp hi) (hprefix hle)
  · exact (eq_of_prefix_of_treeShape h (fileGet_tableOf_of_path h hp hi) hcode (hprefix hle)).symm

/-! ### The obligations -/

/-- Settles O30: the relation fixes the first arena, its sorted list, and every merge. -/
theorem treeIsAFunctionOfTheCounts : Obligations.TreeIsAFunctionOfTheCounts := by
  refine ⟨fun _ _ _ => eq_buildTree_of_buildRelates, fun s a root hs hclosed h => ?_⟩
  rw [exec_build_of_closed hs hclosed, ← eq_buildTree_of_buildRelates h]

/-- Settles O31: in both cases the relation ends without a merge. -/
theorem buildOfDegenerateCounts : Obligations.BuildOfDegenerateCounts := by
  refine ⟨fun f h => ⟨by rw [buildTree_of_zero h], nodeGet_buildTree_of_zero h⟩, fun f b hb h => ?_⟩
  rw [buildTree_of_single hb h]
  exact ⟨rfl, nodeGet_leafArena_of_single hb h⟩

/-- Settles O33: the invariant of the merges at the end, where one tree holds all used nodes. -/
theorem buildStaysWithinItsBounds : Obligations.BuildStaysWithinItsBounds := by
  refine ⟨fun f hm => ?_, fun x => weightAt_root_countBytes⟩
  have h := forest_buildTree (countOfSymbols_pos_iff.1 hm)
  refine ⟨h.internal_iff, fun i w l r hi => ?_, h.weightAt_root, totalCount_lt f,
    fun i => h.weightAt_lt_root, fun b code => h.length_code_le⟩
  obtain ⟨hl, hr, -⟩ := h.children i w l r hi
  exact ⟨hl, hr, h.weights i w l r hi⟩

/-- Settles O37: the tree of BUILD has a leaf for each nonzero count, and in a table made of a tree no code
begins another and every bit sequence begins with one. -/
theorem builtTablesArePrefixFreeAndComplete : Obligations.BuiltTablesArePrefixFreeAndComplete := by
  intro f T
  have hshape := treeShape_buildTree f
  have hnone (b : Byte) : fileGet T b = none ↔ fileGet f b = 0#64 := fileGet_tableOf_buildTree_eq_none_iff
  refine ⟨fun b => ?_, prefixFree_of_treeShape hshape, fun b code hcode => ?_, ?_⟩
  · rw [Option.isSome_iff_ne_none, Ne, hnone]
  · refine ⟨codesFit_tableOf _ _ b code hcode, ?_⟩
    rintro rfl c hc
    exact fileGet_eq_none_of_nil hshape hcode hc
  · rintro ⟨b, -, -, hb, -⟩
    have hne : fileGet f b ≠ 0#64 := (hnone b).not.1 (Option.isSome_iff_ne_none.1 hb)
    exact existsUnique_code hshape ((forest_buildTree ⟨b, hne⟩).isLeafOrInternal hshape.rootUsed)

end Sys2Proof.Forests

/-! The state invariants of R31: they hold at reset, and every command and every host action keeps them
(spec/10_state.md section 10). -/

namespace Sys2Proof.Invariants

open Sys2Proof.Machine Sys2Proof.Certificates Sys2Proof.Effects Sys2Proof.Encoding Sys2Proof.CodeTables
  Sys2Proof.Codec Sys2Proof.SystemCommands Sys2Proof.Exceptions Sys2Proof.Trees Sys2Proof.Forests

/-! ### What is written meets the invariants -/

/-- A later record of a byte value replaces an earlier one, so every code entered is that of a record. -/
theorem codesFit_enterRecords {es : List (Byte × Code)} (hes : ∀ e ∈ es, e.2.length ≤ 255) {T : CodeTable}
    (hT : CodesFit T) : CodesFit (enterRecords T es) := by
  induction es generalizing T with
  | nil => exact hT
  | cons e es ih =>
    obtain ⟨he, hes⟩ := List.forall_mem_cons.1 hes
    refine ih hes fun b code hcode => ?_
    rw [fileGet_fileSet] at hcode
    split at hcode
    · cases hcode; exact he
    · exact hT b code hcode

theorem codesFit_of_parses {src : List Byte} {T : CodeTable} {p : Nat} (h : Parses src T p) : CodesFit T := by
  obtain ⟨es, rest, -, hes, -, -, rfl⟩ := parses_iff.1 h
  exact codesFit_enterRecords hes fun b code hcode => by simp at hcode

theorem length_le_of_parses {src : List Byte} {T : CodeTable} {p : Nat} (h : Parses src T p) :
    p ≤ src.length := by
  obtain ⟨es, rest, -, -, rfl, rfl, -⟩ := parses_iff.1 h
  rw [List.length_append]
  exact Nat.le_add_right _ _

theorem parses_of_deserialize {src : List Byte} {parsed : CodeTable × Nat}
    (h : deserialize src = .ok parsed) : Parses src parsed.1 parsed.2 := by
  obtain herror | ⟨T, p, hparses, hok⟩ := deserialize_cases src
  · rw [herror] at h; cases h
  · rw [hok] at h; cases h; exact hparses

/-! ### The updates of the state -/

theorem code_toNat_le (cause : FaultCause) : cause.code.toNat ≤ 7 := by
  cases cause <;> decide

@[simp] theorem length_memAppend {α : Type} (buf : List α) (v : α) :
    (memAppend buf v).length = buf.length + 1 := by
  simp [memAppend]

theorem inv_resetWith (caps : Capacities) (queue : List HostAction) : (State.resetWith caps queue).Inv where
  cursor := le_rfl
  ibufFits := by cases hcap : caps.ibuf <;> simp [State.ibufAdmits, State.resetWith, State.ilen, hcap]
  obufFits := by cases hcap : caps.obuf <;> simp [State.obufAdmits, State.resetWith, State.olen, hcap]
  bbufFits := by cases hcap : caps.bbuf <;> simp [State.bbufAdmits, State.resetWith, State.blen, hcap]
  errLegal := Nat.zero_le 7
  tree := nofun
  table := nofun

section Updates

variable {s : State} (h : s.Inv)
include h

theorem inv_faulted (cause : FaultCause) (w : CmdWord) : (faulted s cause.code w).Inv :=
  { h with errLegal := code_toNat_le cause }

theorem inv_clearLatch : s.clearLatch.Inv := { h with errLegal := Nat.zero_le 7 }

theorem inv_putInput_nil : (s.putInput [] 0).Inv :=
  { h with cursor := le_rfl, ibufFits := capacityAdmits_mono (Nat.zero_le _) h.ibufFits }

theorem inv_ipush {b : Byte} (hfits : s.ibufAdmits (s.ilen + 1) = true) :
    (s.putInput (memAppend s.ibuf b) s.ipos).Inv :=
  { h with
    cursor := by
      rw [State.ilen_eq, State.putInput_ibuf, length_memAppend]
      exact Nat.le_succ_of_le h.cursor
    ibufFits := by rwa [State.ilen_eq, State.putInput_ibuf, length_memAppend] }

theorem inv_consumeAll : s.consumeAll.Inv := { h with cursor := le_rfl }

theorem inv_advance {n : Nat} (hn : n ≤ s.unread.length) : (s.advance n).Inv := by
  have hlength := s.unread_length
  have hcursor := h.cursor
  exact { h with cursor := (by omega : s.ipos + n ≤ s.ilen) }

theorem inv_putLen (v : Len) : (s.putLen v).Inv := { h with }

theorem inv_putObuf {bytes : List Byte} (hfits : s.obufAdmits bytes.length = true) : (s.putObuf bytes).Inv :=
  { h with obufFits := hfits }

theorem inv_putBbuf {bits : List Bit} (hfits : s.bbufAdmits bits.length = true) : (s.putBbuf bits).Inv :=
  { h with bbufFits := hfits }

theorem inv_putTree {a : Arena} {root : NodeId} (htree : TreeShape a root) : (s.putTree a root).markTree.Inv :=
  { h with tree := fun _ => htree }

theorem inv_putCt {T : CodeTable} (hfit : CodesFit T) : (s.putCt T).markTable.Inv :=
  { h with table := fun _ => hfit }

theorem inv_withInputTree : (withInputTree s).Inv :=
  { h with tree := fun _ => treeShape_buildTree _, table := fun _ => codesFit_tableOf _ _ }

end Updates

/-! ### Every command keeps the invariants -/

theorem inv_of_operation {i : Instr} {s t : State} (hs : s.Inv) (h : operation i s = .ok t) : t.Inv := by
  cases i with
  | nop => obtain rfl := pure_ok.1 h; exact hs
  | iclr => obtain rfl := pure_ok.1 h; exact inv_putInput_nil hs
  | ipush b => obtain ⟨hfits, rfl⟩ := opIpush_ok.1 h; exact inv_ipush hs hfits
  | bclr =>
    obtain rfl := pure_ok.1 h
    exact inv_putBbuf hs (capacityAdmits_mono (Nat.zero_le _) hs.bbufFits)
  | bpush b =>
    obtain ⟨hfits, rfl⟩ := opBpush_ok.1 h
    exact inv_putBbuf hs (by rwa [length_memAppend])
  | eclr => obtain rfl := pure_ok.1 h; exact inv_clearLatch hs
  | srst => obtain rfl := pure_ok.1 h; exact inv_resetWith _ _
  | flatten => obtain ⟨hfits, rfl⟩ := opFlatten_ok.1 h; exact inv_consumeAll (inv_putBbuf hs hfits)
  | pack => obtain ⟨hfits, rfl⟩ := writeObuf_ok.1 h; exact inv_putObuf hs hfits
  | enclen => obtain ⟨hfits, rfl⟩ := writeObuf_ok.1 h; exact inv_putObuf hs hfits
  | declen => obtain ⟨hlen, rfl⟩ := opDeclen_ok.1 h; exact inv_advance (inv_putLen hs _) hlen
  | fnew => obtain rfl := pure_ok.1 h; exact { hs with }
  | feed b => obtain ⟨-, -, rfl⟩ := opFeed_ok.1 h; exact { hs with }
  | finalize => obtain ⟨-, rfl⟩ := opFinalize_ok.1 h; exact { hs with }
  | build => obtain ⟨-, rfl⟩ := opBuild_ok.1 h; exact inv_putTree hs (treeShape_buildTree _)
  | gentable => obtain ⟨-, rfl⟩ := opGentable_ok.1 h; exact inv_putCt hs (codesFit_tableOf _ _)
  | serialize => obtain ⟨-, hfits, rfl⟩ := opSerialize_ok.1 h; exact inv_putObuf hs hfits
  | deserialize =>
    obtain ⟨parsed, hparsed, rfl⟩ := opDeserialize_ok.1 h
    have hparses := parses_of_deserialize hparsed
    exact inv_advance (inv_putCt hs (codesFit_of_parses hparses)) (length_le_of_parses hparses)
  | encode => obtain ⟨-, -, hfits, rfl⟩ := opEncode_ok.1 h; exact inv_consumeAll (inv_putBbuf hs hfits)
  | compress =>
    obtain ⟨-, hbits, hbytes, rfl⟩ := opCompress_ok.1 h
    exact inv_consumeAll (inv_putLen (inv_putObuf (inv_putBbuf (inv_withInputTree hs) hbits) hbytes) _)
  | assemble =>
    obtain ⟨-, hfits, rfl⟩ := opAssemble_ok.1 h
    exact inv_putObuf (inv_putCt hs (codesFit_tableOf _ _)) hfits
  | decode =>
    obtain ⟨-, hfits, out, hout, rfl⟩ := opDecode_ok.1 h
    exact inv_putObuf hs (length_of_decodeBits hout ▸ hfits)
  | decompress =>
    obtain ⟨len, parsed, bits, out, -, -, hparsed, -, hbits, hbytes, hout, rfl⟩ := opDecompress_ok.1 h
    have htable := codesFit_of_parses (parses_of_deserialize hparsed)
    exact inv_consumeAll (inv_putObuf (inv_putCt (inv_putLen (inv_putBbuf hs hbits) len) htable)
      (length_of_decodeBits hout ▸ hbytes))

theorem inv_of_exec {i : Instr} {s t : State} (hs : s.Inv) (h : exec i s = .next t) : t.Inv := by
  obtain rfl | hok | ⟨cause, rfl⟩ := exec_cases h
  · exact hs
  · exact inv_of_operation hs hok
  · exact inv_faulted hs cause _

/-! ### Every host action keeps the invariants -/

theorem inv_of_execWord {w : CmdWord} {s t : State} (hs : s.Inv) (h : execWord w s = .next t) : t.Inv := by
  rw [execWord] at h
  split at h
  · exact inv_of_exec hs h
  · split at h <;> cases h
    · exact hs
    · exact inv_faulted hs .illegalCommand w

theorem inv_of_hostAct {a : HostAction} {s t : State} (hs : s.Inv) (h : hostAct a s = .next t) : t.Inv := by
  cases a with
  | command w => exact inv_of_execWord hs h
  | writeReg n v =>
    rw [hostAct, hostWriteReg] at h
    split at h
    · cases h; exact inv_putLen hs v
    · split at h
      · exact inv_of_execWord hs h
      · cases h; exact hs
  | readReg | readElement => cases h; exact hs
  | hardReset => cases h; exact inv_resetWith _ _

theorem inv_of_step {s t : State} (hs : s.Inv) (h : step s = .next t) : t.Inv := by
  rw [step, nextAction] at h
  split at h
  · cases h; exact hs
  next a rest _ =>
    have hs' : ({ s with hostQueue := rest } : State).Inv := { hs with }
    exact inv_of_hostAct hs' h

/-! ### The obligations -/

/-- Settles O58, by the host action of the step and, for a command, what its operation commits. -/
theorem stepKeepsTheInvariants : Obligations.StepKeepsTheInvariants := fun _ _ => inv_of_step

theorem holdsResetValues_resetWith (caps : Capacities) (queue : List HostAction) :
    HoldsResetValues (State.resetWith caps queue) :=
  holdsResetValues_restart (State.resetWith caps queue)

/-- Settles O59: the reset state has empty buffers, no tree and no table. -/
theorem resetMeetsTheInvariants : Obligations.ResetMeetsTheInvariants :=
  ⟨⟨holdsResetValues_resetWith _ _, inv_resetWith _ _⟩, fun caps queue =>
    ⟨holdsResetValues_resetWith caps queue, inv_resetWith caps queue⟩⟩

end Sys2Proof.Invariants

/-! The laws of the bit converter's four functions (spec/40_bitconverter.md rule R74). -/

namespace Sys2Proof.BitConverter

open Sys2Proof.Machine Sys2Proof.Certificates

/-! ### `pack` and `flatten` -/

theorem pack_flatten (x : List Byte) : pack (flatten x) = x := by
  refine List.ext_getElem (by simp; omega) fun i _ hi => byte_ext fun j hj => ?_
  have hin : 8 * i + j < (flatten x).length := by rw [length_flatten]; omega
  rw [getElem_pack, getLsbD_packByte _ _ hj, List.getD_eq_getElem _ _ hin, ← List.getD_eq_getElem _ false hin,
    getD_flatten x i hj, List.getD_eq_getElem _ _ hi]

/-- The number of 1-bits `pack` fills the last byte with. -/
def padLength (bits : List Bit) : Nat := 8 * ((bits.length + 7) / 8) - bits.length

/-- Packing and flattening adds the pad bits and nothing else. -/
theorem flatten_pack (bits : List Bit) :
    flatten (pack bits) = bits ++ List.replicate (padLength bits) true := by
  refine List.ext_getElem (by simp [padLength]; omega) fun n hn _ => ?_
  rw [length_flatten] at hn
  have hi : n / 8 < (pack bits).length := by omega
  have hj : n % 8 < 8 := Nat.mod_lt _ (by decide)
  have hbit := getD_flatten (pack bits) (n / 8) hj
  rw [getLsbD_getD_pack bits hi hj, Nat.div_add_mod, List.getD_eq_getElem _ _ (by rwa [length_flatten])] at hbit
  rw [hbit]
  split
  case isTrue h => rw [List.getElem_append_left h]
  case isFalse h => rw [List.getElem_append_right (not_lt.1 h), List.getElem_replicate]

theorem padLength_of_mod_ne_zero {bits : List Bit} (h : bits.length % 8 ≠ 0) :
    padLength bits = 8 - bits.length % 8 := by
  rw [padLength]
  omega

theorem padLength_of_mod_eq_zero {bits : List Bit} (h : bits.length % 8 = 0) : padLength bits = 0 := by
  rw [padLength]
  omega

/-- The low bits of the last byte are the pad bits. -/
theorem getLsbD_getLastD_pack {bits : List Bit} {j : Nat} (hj : j < 8 - bits.length % 8)
    (h : bits.length % 8 ≠ 0) : ((pack bits).getLastD 0#8).getLsbD j = true := by
  have hlen := length_pack bits
  have hlast : (pack bits).getLastD 0#8 = (pack bits).getD ((pack bits).length - 1) 0#8 := by
    rw [List.getLastD_eq_getLast?, List.getLast?_eq_getElem?, List.getD_eq_getElem?_getD]
  have hbit := getLsbD_getD_pack bits (i := (pack bits).length - 1) (j := 7 - j) (by omega) (by omega)
  rw [show 7 - (7 - j) = j by omega, dif_neg (by omega)] at hbit
  rw [hlast, hbit]

/-! ### `encodeLength` and `decodeLength` -/

/-- The number whose first `n` digits to base 256, the most significant first, are those of `d`. -/
def ofBytes (d : Nat → Nat) : Nat → Nat
  | 0 => 0
  | n + 1 => 256 * ofBytes d n + d n

theorem digit_ofBytes {d : Nat → Nat} (hd : ∀ k, d k < 256) {n k : Nat} (hk : k ≤ n) :
    ofBytes d (n + 1) / 256 ^ (n - k) % 256 = d k := by
  induction n with
  | zero =>
    obtain rfl := Nat.le_zero.1 hk
    simpa [ofBytes] using hd 0
  | succ n ih =>
    obtain hk | rfl := Nat.le_succ_iff.1 hk
    · have hlast := hd (n + 1)
      have hdrop : (256 * ofBytes d (n + 1) + d (n + 1)) / 256 = ofBytes d (n + 1) := by omega
      rw [ofBytes, Nat.succ_sub hk, Nat.pow_succ', ← Nat.div_div_eq_div_mul, hdrop, ih hk]
    · rw [ofBytes, Nat.sub_self, pow_zero, Nat.div_one, Nat.mul_add_mod, Nat.mod_eq_of_lt (hd _)]

/-- The sum of R73 takes the bytes as digits to base 256. -/
theorem toNat_decodeLength_eq_ofBytes (e : List Byte) :
    (decodeLength e).toNat = ofBytes (fun k => (e.getD k 0#8).toNat) 8 := by
  rw [toNat_decodeLength]
  simp only [Finset.sum_range_succ, Finset.sum_range_zero, ofBytes]
  ring

theorem digit_decodeLength {e : List Byte} {k : Nat} (hk : k < 8) :
    (decodeLength e).toNat / 2 ^ (8 * (7 - k)) % 256 = (e.getD k 0#8).toNat := by
  rw [toNat_decodeLength_eq_ofBytes, pow_mul]
  exact digit_ofBytes (d := fun k => (e.getD k 0#8).toNat) (fun k => (e.getD k 0#8).isLt)
    (Nat.le_of_lt_succ hk)

theorem encodeLength_decodeLength {e : List Byte} (h : e.length = 8) : encodeLength (decodeLength e) = e := by
  refine List.ext_getElem (by simp [h]) fun k hk hk' => BitVec.eq_of_toNat_eq ?_
  rw [← List.getD_eq_getElem _ 0#8 hk, ← List.getD_eq_getElem _ 0#8 hk',
    toNat_getD_encodeLength _ (h ▸ hk'), digit_decodeLength (h ▸ hk')]

/-- Every bit of a length is one of its bytes' (R72). -/
theorem getLsbD_encodeLength (n : Len) {i : Nat} (hi : i < 64) :
    ((encodeLength n).getD (7 - i / 8) 0#8).getLsbD (i % 8) = n.getLsbD i := by
  have hindex : 8 * (7 - (7 - i / 8)) + i % 8 = i := by omega
  rw [List.getD_eq_getElem _ _ (by rw [length_encodeLength]; omega), getElem_encodeLength,
    BitVec.getLsbD_setWidth, BitVec.getLsbD_ushiftRight, hindex]
  simp [Nat.mod_lt]

theorem encodeLength_injective : Function.Injective encodeLength := fun m n h =>
  BitVec.eq_of_getLsbD_eq fun i hi => by
    rw [← getLsbD_encodeLength m hi, h, getLsbD_encodeLength n hi]

theorem decodeLength_encodeLength (n : Len) : decodeLength (encodeLength n) = n :=
  encodeLength_injective (encodeLength_decodeLength (length_encodeLength n))

/-! ### The obligation -/

/-- Settles O25: `pack` undoes `flatten`, `flatten` undoes `pack` but for the pad bits, and the bytes of a length
are its digits to base 256. -/
theorem bitConverterLaws : Obligations.BitConverterLaws := by
  refine ⟨length_flatten, pack_flatten, fun s hs => ⟨fun j hj => getLsbD_getLastD_pack hj hs, ?_⟩,
    fun s hs => ?_, decodeLength_encodeLength, fun e => encodeLength_decodeLength⟩
  · rw [flatten_pack, padLength_of_mod_ne_zero hs]
  · rw [flatten_pack, padLength_of_mod_eq_zero hs, List.replicate_zero, List.append_nil]

end Sys2Proof.BitConverter

/-! The round trips of the codec: a table through its records, an input through its codes, and a container through
COMPRESS, ASSEMBLE and DECOMPRESS; and these commands against their unit commands (spec/43_code_table.md rule
R111, spec/44_codec.md rules R121 to R129, spec/70_reset_and_hazards.md rule R179). -/

namespace Sys2Proof.RoundTrips

open Sys2Proof.Machine Sys2Proof.Certificates Sys2Proof.Effects Sys2Proof.BitConverter Sys2Proof.CodeTables
  Sys2Proof.Codec Sys2Proof.Exceptions Sys2Proof.Outcomes Sys2Proof.Counting Sys2Proof.FrequencyCounter
  Sys2Proof.TreeBuilder Sys2Proof.Trees Sys2Proof.Forests Sys2Proof.Invariants

/-! ### A table through its records (R111) -/

section Table

variable {T : CodeTable} {es : List (Byte × Code)} {b : Byte} {code : Code}

theorem fileGet_enterRecords_of_not_mem (h : ∀ e ∈ es, e.1 ≠ b) :
    fileGet (enterRecords T es) b = fileGet T b := by
  induction es generalizing T with
  | nil => rfl
  | cons e es ih =>
    obtain ⟨he, hes⟩ := List.forall_mem_cons.1 h
    rw [enterRecords_cons, ih hes, fileGet_fileSet, if_neg he.symm]

/-- Where no byte value comes twice, no record replaces another. -/
theorem fileGet_enterRecords_of_mem (hes : es.Pairwise fun e e' => e.1 < e'.1) (h : (b, code) ∈ es) :
    fileGet (enterRecords T es) b = some code := by
  induction es generalizing T with
  | nil => cases h
  | cons e es ih =>
    obtain ⟨he, hes⟩ := List.pairwise_cons.1 hes
    rw [enterRecords_cons]
    obtain rfl | hmem := List.mem_cons.1 h
    · rw [fileGet_enterRecords_of_not_mem fun e' he' => (BitVec.ne_of_lt (he e' he')).symm,
        fileGet_fileSet_self]
    · exact ih hes hmem

theorem tableOfRecords_entries (T : CodeTable) : tableOfRecords (entries T) = T := by
  refine file_ext fun b => ?_
  rw [tableOfRecords_eq]
  cases hb : fileGet T b with
  | some code => exact fileGet_enterRecords_of_mem (pairwise_entries T) (mem_entries.2 hb)
  | none =>
    rw [fileGet_enterRecords_of_not_mem, fileGet_emptyTable]
    rintro ⟨c, code⟩ hmem rfl
    rw [mem_entries.1 hmem] at hb
    cases hb

theorem entries_eq_nil_iff : entries T = [] ↔ ∀ b, fileGet T b = none := by
  simp only [List.eq_nil_iff_forall_not_mem, Prod.forall, mem_entries, Option.eq_none_iff_forall_ne_some]

/-- The serialisation of a table, whatever follows it where it is not empty, is one of the grammar (R110). -/
theorem parses_serialize (hfit : CodesFit T) {rest : List Byte}
    (h : (∃ b, fileGet T b ≠ none) ∨ rest = []) : Parses (serialize T ++ rest) T (serialize T).length :=
  parses_iff.2 ⟨entries T, rest, h.imp_left fun hsome => by rwa [Ne, entries_eq_nil_iff, not_forall],
    fun e he => hfit e.1 e.2 (mem_entries.1 he), rfl, rfl, (tableOfRecords_entries T).symm⟩

end Table

/-! ### Decoding a symbol (R125 to R127) -/

section Symbols

variable {T : CodeTable} {buf code : Code} {b : Byte} {bit : Bit} {bits rest : List Bit}

/-- The byte matched is the smallest of those with the code (R127 (a)). -/
theorem matchCode_eq_some_iff : matchCode T buf = some b ↔
    fileGet T b = some buf ∧ ∀ c < b, fileGet T c ≠ some buf := by
  rw [matchCode_eq_smallestMatch, smallestMatch, Option.map_eq_some_iff]
  simp only [List.find?_range_eq_some, decide_eq_true_eq, List.mem_range, Bool.not_eq_true',
    decide_eq_false_iff_not]
  constructor
  · rintro ⟨n, ⟨hn, hlt, hfirst⟩, rfl⟩
    refine ⟨hn, fun c hc => ?_⟩
    rw [BitVec.lt_def, BitVec.toNat_ofNat, Nat.mod_eq_of_lt hlt] at hc
    simpa using hfirst c.toNat hc
  · rintro ⟨hb, hfirst⟩
    refine ⟨b.toNat, ⟨by simpa using hb, b.isLt, fun n hn => hfirst _ ?_⟩, by simp⟩
    rwa [BitVec.lt_def, BitVec.toNat_ofNat, Nat.mod_eq_of_lt (hn.trans b.isLt)]

theorem matchCode_eq_none_iff : matchCode T buf = none ↔ ∀ b, fileGet T b ≠ some buf := by
  rw [matchCode_eq_smallestMatch, smallestMatch, Option.map_eq_none_iff, List.find?_eq_none]
  simp only [List.mem_range, decide_eq_true_eq]
  constructor
  · exact fun h b => by simpa using h b.toNat b.isLt
  · exact fun h n _ => h _

theorem viable_of_prefix (hcode : fileGet T b = some code) (h : buf <+: code) : viable T buf = true := by
  rw [viable_eq_someCodeBegins, someCodeBegins, List.any_eq_true]
  exact ⟨b.toNat, List.mem_range.2 b.isLt, by simpa [hcode] using h⟩

theorem viable_of_empty (h : ∀ b, fileGet T b = none) : viable T buf = false := by
  rw [viable_eq_someCodeBegins, someCodeBegins, List.any_eq_false]
  intro n _
  rw [h]
  nofun

theorem decodeSymbol_of_viable (h : matchCode T buf = none) (hviable : viable T (buf ++ [bit]) = true) :
    decodeSymbol T buf (bit :: bits) = decodeSymbol T (buf ++ [bit]) bits := by
  rw [decodeSymbol, h]
  simp only [hviable, if_true]

/-- What decoding can emit: the match of a code no proper beginning of which matches (R125, R127 (b)). -/
def Emits (T : CodeTable) (code : Code) (b : Byte) : Prop :=
  matchCode T code = some b ∧ ∀ code', code' <+: code → code' ≠ code → matchCode T code' = none

theorem emits_of_decodeSymbol (hbuf : ∀ code', code' <+: buf → code' ≠ buf → matchCode T code' = none)
    (h : decodeSymbol T buf bits = .ok (b, rest)) : ∃ code, Emits T code b := by
  fun_induction decodeSymbol T buf bits with
  | case1 buf c hmatch => cases h; exact ⟨buf, hmatch, hbuf⟩
  | case2 => cases h
  | case3 buf bit bits c hmatch => cases h; exact ⟨buf, hmatch, hbuf⟩
  | case4 buf bit bits hmatch _ ih =>
    refine ih (fun code' hprefix hne => ?_) h
    obtain heq | hprefix := List.prefix_concat_iff.1 hprefix
    · exact absurd heq hne
    · by_cases heq : code' = buf
      · rw [heq, hmatch]
      · exact hbuf code' hprefix heq
  | case5 => cases h

theorem emits_of_decodeBits {n : Nat} {out : List Byte} (h : decodeBits T n bits = .ok out) :
    ∀ b ∈ out, ∃ code, Emits T code b := by
  induction n generalizing bits out with
  | zero => cases h; exact List.forall_mem_nil _
  | succ n ih =>
    simp only [decodeBits, bind_ok, pure_ok] at h
    obtain ⟨⟨b, rest⟩, hsym, tail, htail, rfl⟩ := h
    exact List.forall_mem_cons.2
      ⟨emits_of_decodeSymbol (fun _ hprefix hne => absurd (List.prefix_nil.1 hprefix) hne) hsym, ih htail⟩

theorem decodeBits_of_match_nil (h : matchCode T [] = some b) (n : Nat) (bits : List Bit) :
    decodeBits T n bits = .ok (List.replicate n b) := by
  induction n with
  | zero => rfl
  | succ n ih =>
    rw [← decodeFrom_nil, decodeFrom_of_match h, decodeFrom_nil, ih, List.replicate_succ]
    rfl

theorem decodeBits_of_empty (h : ∀ b, fileGet T b = none) {n : Nat} (hn : 0 < n) (bits : List Bit) :
    decodeBits T n bits = .error (if bits = [] then .decodeError else .unknownCode) := by
  obtain ⟨n, rfl⟩ := Nat.exists_eq_add_one_of_ne_zero hn.ne'
  have hmatch : matchCode T [] = none := matchCode_eq_none_iff.2 fun b => by rw [h b]; nofun
  rw [← decodeFrom_nil]
  cases bits with
  | nil => exact decodeFrom_of_exhausted hmatch
  | cons bit bits => exact decodeFrom_of_not_viable hmatch (viable_of_empty h)

end Symbols

/-! ### An input through its codes (R129) -/

section Decoding

variable {T : CodeTable} (hT : PrefixFree T)
include hT

/-- In the middle of the code of `b` the rest of it is read, as nothing else can match. -/
theorem decodeSymbol_of_prefixFree {b : Byte} {code buf rest bits : List Bit} (hb : fileGet T b = some code)
    (hcode : code = buf ++ rest) : decodeSymbol T buf (rest ++ bits) = .ok (b, bits) := by
  have hothers (c : Byte) (hc : fileGet T c = some buf) : c = b := by
    by_contra hne
    exact hT c b buf code hne hc hb (hcode ▸ List.prefix_append buf rest)
  induction rest generalizing buf with
  | nil =>
    rw [List.append_nil] at hcode
    refine decodeSymbol_of_match (matchCode_eq_some_iff.2 ⟨hcode ▸ hb, fun c hc hmatch => ?_⟩)
    exact BitVec.ne_of_lt hc (hothers c hmatch)
  | cons bit rest ih =>
    have hmatch : matchCode T buf = none := matchCode_eq_none_iff.2 fun c hc => by
      rw [hothers c hc, hb, Option.some.injEq, hcode] at hc
      simp at hc
    rw [List.append_cons] at hcode
    have hprefix : buf ++ [bit] <+: code := hcode ▸ List.prefix_append _ _
    rw [List.cons_append, decodeSymbol_of_viable hmatch (viable_of_prefix hb hprefix)]
    exact ih hcode fun c hc => by
      by_contra hne
      exact hT c b _ code hne hc hb hprefix

theorem decodeBits_encodeBytes {x : List Byte} (hx : ∀ b ∈ x, fileGet T b ≠ none) (pad : List Bit) :
    decodeBits T x.length (encodeBytes T x ++ pad) = .ok x := by
  induction x with
  | nil => rfl
  | cons b x ih =>
    obtain ⟨hb, hx⟩ := List.forall_mem_cons.1 hx
    obtain ⟨code, hcode⟩ := Option.ne_none_iff_exists'.1 hb
    have hbits : encodeBytes T (b :: x) = code ++ encodeBytes T x := by
      rw [encodeBytes, List.flatMap_cons, hcode]
      rfl
    have hsym := decodeSymbol_of_prefixFree hT (buf := []) (bits := encodeBytes T x ++ pad) hcode rfl
    rw [hbits, List.append_assoc, List.length_cons, decodeBits]
    exact bind_ok.2 ⟨_, hsym, bind_ok.2 ⟨x, ih hx, rfl⟩⟩

end Decoding

/-! ### The table of an input -/

section InputTable

variable {x : List Byte} (hx : x.length < 2 ^ 64) {b : Byte}

theorem codesFit_inputTable (x : List Byte) : CodesFit (inputTable x) := codesFit_tableOf _ _

theorem prefixFree_inputTable (x : List Byte) : PrefixFree (inputTable x) :=
  prefixFree_of_treeShape (treeShape_buildTree _)

include hx

theorem fileGet_inputTable_ne_none_iff : fileGet (inputTable x) b ≠ none ↔ b ∈ x := by
  rw [← countBytes_ne_zero_iff hx, Ne, Ne, inputTable, fileGet_tableOf_buildTree_eq_none_iff]

theorem allEncodable_inputTable : allEncodable (inputTable x) x = true :=
  allEncodable_iff.2 fun _ => (fileGet_inputTable_ne_none_iff hx).2

/-- The only byte value of an input has the zero-length code (R91, R102). -/
theorem fileGet_inputTable_of_single (h : ∀ b ∈ x, ∀ c ∈ x, b = c) (hb : b ∈ x) :
    fileGet (inputTable x) b = some [] := by
  have hne := (countBytes_ne_zero_iff hx).2 hb
  have hzero (c : Byte) (hc : c ≠ b) : fileGet (countBytes x) c = 0#64 := by
    by_contra hcount
    exact hc (h c ((countBytes_ne_zero_iff hx).1 hcount) b hb)
  have hleaf := (nodeGet_leafArena_of_single hne hzero (leafId b)).trans (if_pos rfl)
  rw [inputTable, buildTree_of_single hne hzero, fileGet_tableOf_of_leaf_root hleaf, if_pos rfl]

theorem entries_inputTable_eq_nil_iff : entries (inputTable x) = [] ↔ x = [] := by
  rw [entries_eq_nil_iff]
  simp only [List.eq_nil_iff_forall_not_mem, ← fileGet_inputTable_ne_none_iff hx, not_not]

end InputTable

/-! ### The size of a container (R124) -/

section Size

/-- CLEN as a number (R23). -/
def codeLength (T : CodeTable) (b : Byte) : Nat := ((fileGet T b).getD []).length

theorem length_encodeBytes (T : CodeTable) (x : List Byte) : (encodeBytes T x).length =
    ((List.range 256).map fun n =>
      x.count (BitVec.ofNat 8 n) * codeLength T (BitVec.ofNat 8 n)).sum := by
  rw [← sum_map_eq_sum_count_mul x (codeLength T), encodeBytes, List.length_flatMap]
  rfl

theorem entries_eq_filterMap_range (T : CodeTable) : entries T = (List.range 256).filterMap fun n =>
    (fileGet T (BitVec.ofNat 8 n)).map fun code => (BitVec.ofNat 8 n, code) := by
  have hzip : T.toList.zipIdx = (List.range 256).map fun n => (fileGet T (BitVec.ofNat 8 n), n) := by
    refine List.ext_getElem (by simp) fun n hn _ => ?_
    simp [toList_eq_map_fileGet]
  rw [entries, hzip, List.filterMap_map]
  rfl

variable {x : List Byte} (hx : x.length < 2 ^ 64)
include hx

theorem length_serialize_inputTable : (serialize (inputTable x)).length =
    if x = [] then 1 else ((List.range 256).map fun n =>
      if x.count (BitVec.ofNat 8 n) = 0 then 0
      else codeLength (inputTable x) (BitVec.ofNat 8 n) + 2).sum := by
  rw [serialize]
  split
  case isTrue hnil => rw [(entries_inputTable_eq_nil_iff hx).2 hnil]; rfl
  case isFalse hne =>
    rw [length_serializeEntries ((entries_inputTable_eq_nil_iff hx).not.2 hne), entries_eq_filterMap_range]
    refine sum_map_filterMap (fun n _ e he => ?_) fun n _ hnone => ?_
    · obtain ⟨code, hcode, rfl⟩ := Option.map_eq_some_iff.1 he
      have hmem := (fileGet_inputTable_ne_none_iff hx).1 (by rw [hcode]; nofun)
      rw [if_neg (List.count_pos_iff.2 hmem).ne', codeLength, hcode]
      rfl
    · have hmem := (fileGet_inputTable_ne_none_iff hx).not.1 (not_not.2 (Option.map_eq_none_iff.1 hnone))
      rw [if_pos (List.count_eq_zero.2 hmem)]

theorem inputBits_of_single (h : ∀ b ∈ x, ∀ c ∈ x, b = c) : inputBits x = [] := by
  rw [inputBits, encodeBytes, List.flatMap_eq_nil_iff]
  intro b hb
  rw [fileGet_inputTable_of_single hx h hb]
  rfl

end Size

/-! ### The unit commands of COMPRESS (R121) and DECOMPRESS (R179) -/

/-- The unread bytes after `n` of them. -/
theorem drop_ibuf_add (s : State) (n : Nat) : s.ibuf.drop (s.ipos + n) = (unreadOf s).drop n :=
  List.drop_drop.symm

theorem unreadOf_withInputTree (s : State) : unreadOf (withInputTree s) = unreadOf s := rfl

theorem encodeBytes_withInputTree (s : State) :
    encodeBytes (withInputTree s).ct (unreadOf (withInputTree s)) = inputBits (unreadOf s) := rfl

section Units

variable {s : State} (hs : s.err = 0#8)
include hs

/-- BUILD and GENTABLE make tree and table of the counts of the unread input. -/
theorem runCommands_build_gentable (rest : List Instr) : runCommands (.build :: .gentable :: rest)
      { s with freq := countBytes (unreadOf s), fcOpen := false } = runCommands rest (withInputTree s) := by
  rw [runCommands_cons_of_next (exec_build_of_closed (s := { s with freq := _, fcOpen := false }) hs rfl),
    runCommands_cons_of_next (exec_gentable_of_tree
      (s := { s with freq := _, fcOpen := false, nodes := _, root := _, treeValid := true }) hs rfl)]
  rfl

theorem exec_encode_withInputTree (hx : (unreadOf s).length < 2 ^ 64)
    (hbits : fits s.caps.bbuf (inputBits (unreadOf s)).length) : exec .encode (withInputTree s) =
      .next ((withInputTree s).putBbuf (inputBits (unreadOf s))).consumeAll := by
  have hall : allEncodable (withInputTree s).ct (unreadOf (withInputTree s)) = true := by
    rw [unreadOf_withInputTree]
    exact allEncodable_inputTable hx
  rw [← encodeBytes_withInputTree] at hbits ⊢
  exact exec_encode_of_fits (s := withInputTree s) hs rfl hall hbits

theorem runCommands_encode_pack (hx : (unreadOf s).length < 2 ^ 64)
    (hbits : fits s.caps.bbuf (inputBits (unreadOf s)).length)
    (hbytes : fits s.caps.obuf (((inputBits (unreadOf s)).length + 7) / 8)) :
    runCommands [.encode, .pack] (withInputTree s) =
      .next (((withInputTree s).putBbuf (inputBits (unreadOf s))).consumeAll.putObuf
        (pack (inputBits (unreadOf s)))) := by
  have hpack := exec_pack_of_fits (s := ((withInputTree s).putBbuf (inputBits (unreadOf s))).consumeAll)
    hs hbytes
  rw [runCommands_cons_of_next (exec_encode_withInputTree hs hx hbits), runCommands_cons_of_next hpack]
  rfl

variable {T : CodeTable} {p : Nat}

/-- DECLEN and DESERIALIZE read length and table of the unread container. -/
theorem runCommands_declen_deserialize (hlen : 8 ≤ (unreadOf s).length)
    (hparses : Parses ((unreadOf s).drop 8) T p) (rest : List Instr) :
    runCommands (.declen :: .deserialize :: rest) s = runCommands rest { s with
      len := decodeLength (unreadOf s), ct := T, ctValid := true, ipos := s.ipos + 8 + p } := by
  rw [← drop_ibuf_add] at hparses
  have hdeserialize := exec_deserialize_of_parses
    (s := { s with len := decodeLength (unreadOf s), ipos := s.ipos + 8 }) hs hparses
  rw [runCommands_cons_of_next (exec_declen_of_le hs hlen), runCommands_cons_of_next hdeserialize]

/-- FLATTEN and DECODE decode the unread payload by the table and length in place. -/
theorem runCommands_flatten_decode {out : List Byte} (htable : s.ctValid = true)
    (hbits : fits s.caps.bbuf (8 * (unreadOf s).length)) (hroom : fits s.caps.obuf s.len.toNat)
    (hout : decodeBits s.ct s.len.toNat (flatten (unreadOf s)) = .ok out) :
    runCommands [.flatten, .decode] s =
      .next { s with bbuf := flatten (unreadOf s), ipos := s.ibuf.length, obuf := out } := by
  have hdecode := exec_decode_of_ok
    (s := { s with bbuf := flatten (unreadOf s), ipos := s.ibuf.length }) hs htable hroom hout
  rw [runCommands_cons_of_next (exec_flatten_of_fits hs hbits), runCommands_cons_of_next hdecode]
  rfl

end Units

/-! ### What COMPRESS and ASSEMBLE leave -/

/-- The container of an input (R124). -/
def inputContainer (x : List Byte) : List Byte :=
  containerOf (BitVec.ofNat 64 x.length) (inputTable x) (pack (inputBits x))

theorem length_lt_of_compress {s t : State} (hs : s.err = 0#8) (h : exec .compress s = .next t)
    (ht : t.err = 0#8) : (unreadOf s).length < 2 ^ 64 := by
  obtain ⟨hlen, -⟩ := opCompress_ok.1 (operation_ok_of_exec hs h ht)
  exact Nat.lt_of_le_sub_one (by decide) hlen

theorem obuf_of_compress_assemble {s t u : State} (hs : s.err = 0#8) (ht : exec .compress s = .next t)
    (hterr : t.err = 0#8) (hu : exec .assemble t = .next u) (huerr : u.err = 0#8) :
    u.obuf = inputContainer (unreadOf s) := by
  obtain ⟨-, -, -, rfl⟩ := opCompress_ok.1 (operation_ok_of_exec hs ht hterr)
  obtain ⟨-, -, rfl⟩ := opAssemble_ok.1 (operation_ok_of_exec hterr hu huerr)
  rfl

/-! ### Commands that load an input -/

/-- A command that ends without fault, ECLR and SRST apart, began without one. -/
theorem err_of_exec {i : Instr} {s t : State} (hi : runsLatched i = false) (h : exec i s = .next t)
    (ht : t.err = 0#8) : s.err = 0#8 := by
  by_contra hs
  rw [exec_eq_issue, issue_latched hs hi] at h
  cases h
  exact hs ht

theorem eq_of_runCommands_ipush {x : List Byte} {s t : State}
    (h : runCommands (x.map .ipush) s = .next t) (ht : t.err = 0#8) :
    s.err = 0#8 ∧ t = { s with ibuf := s.ibuf ++ x } := by
  induction x generalizing s with
  | nil =>
    cases h
    exact ⟨ht, by rw [List.append_nil]⟩
  | cons b x ih =>
    obtain ⟨mid, hexec⟩ := exists_next_exec (.ipush b) s
    rw [List.map_cons, runCommands_cons_of_next hexec] at h
    obtain ⟨hmiderr, rfl⟩ := ih h
    have hs := err_of_exec rfl hexec hmiderr
    obtain ⟨-, rfl⟩ := opIpush_ok.1 (operation_ok_of_exec hs hexec hmiderr)
    exact ⟨hs, by rw [List.append_cons]; rfl⟩

/-- An input loaded and compressed without fault has been loaded whole. -/
theorem exec_compress_of_runCommands {x : List Byte} {s t : State} (hs : s.err = 0#8)
    (h : runCommands (loadInput x ++ [Instr.compress]) s = .next t) (ht : t.err = 0#8) :
    exec .compress { s with ibuf := x, ipos := 0 } = .next t := by
  obtain ⟨mid, hmid⟩ := exists_next_runCommands (x.map .ipush) { s with ibuf := [], ipos := 0 }
  rw [loadInput, List.cons_append, runCommands_cons_of_next (SystemCommands.exec_iclr hs),
    runCommands_append_of_next hmid] at h
  obtain ⟨u, hu⟩ := exists_next_exec .compress mid
  rw [runCommands_cons_of_next hu] at h
  cases h
  obtain ⟨-, rfl⟩ := eq_of_runCommands_ipush hmid (err_of_exec rfl hu ht)
  exact hu

/-! ### DECOMPRESS of a container (R129) -/

section Decompress

variable {x : List Byte} (hx : x.length < 2 ^ 64) {s : State} (hunread : unreadOf s = inputContainer x)

theorem inputContainer_eq (x : List Byte) : inputContainer x =
    encodeLength (BitVec.ofNat 64 x.length) ++ (serialize (inputTable x) ++ pack (inputBits x)) :=
  List.append_assoc _ _ _

theorem take_inputContainer (x : List Byte) :
    (inputContainer x).take 8 = encodeLength (BitVec.ofNat 64 x.length) := by
  rw [inputContainer_eq, List.take_left' (length_encodeLength _)]

theorem drop_inputContainer (x : List Byte) :
    (inputContainer x).drop 8 = serialize (inputTable x) ++ pack (inputBits x) := by
  rw [inputContainer_eq, List.drop_left' (length_encodeLength _)]

theorem payload_inputContainer (x : List Byte) :
    (inputContainer x).drop (8 + (serialize (inputTable x)).length) = pack (inputBits x) := by
  rw [← List.drop_drop, drop_inputContainer, List.drop_left' rfl]

include hx

theorem parses_inputContainer : Parses ((inputContainer x).drop 8) (inputTable x)
    (serialize (inputTable x)).length := by
  rw [drop_inputContainer]
  refine parses_serialize (codesFit_inputTable x) ?_
  cases x with
  | nil => exact .inr rfl
  | cons b x => exact .inl ⟨b, (fileGet_inputTable_ne_none_iff hx).2 (List.mem_cons_self ..)⟩

theorem decodeBits_inputContainer :
    decodeBits (inputTable x) (decodeLength ((inputContainer x).take 8)).toNat
      (flatten ((inputContainer x).drop (8 + (serialize (inputTable x)).length))) = .ok x := by
  rw [take_inputContainer, decodeLength_encodeLength, BitVec.toNat_ofNat, Nat.mod_eq_of_lt hx,
    payload_inputContainer, flatten_pack]
  exact decodeBits_encodeBytes (prefixFree_inputTable x)
    (fun b => (fileGet_inputTable_ne_none_iff hx).2) _

include hunread

theorem decompress_inputContainer (hs : s.err = 0#8) {t : State} (h : exec .decompress s = .next t)
    (ht : t.err ≠ 7#8) : t.err = 0#8 ∧ t.obuf = x := by
  have hlen : 8 ≤ (unreadOf s).length := by
    rw [hunread, inputContainer_eq, List.length_append, length_encodeLength]
    exact Nat.le_add_right _ _
  have hparses := parses_inputContainer hx
  have hout := decodeBits_inputContainer hx
  rw [← hunread] at hparses hout
  by_cases hroom : fits s.caps.bbuf (8 * ((unreadOf s).length - 8 - (serialize (inputTable x)).length)) ∧
      fits s.caps.obuf (decodeLength ((unreadOf s).take 8)).toNat
  · rw [exec_decompress_of_ok hs hlen hparses hroom.1 hroom.2 hout] at h
    cases h
    exact ⟨hs, rfl⟩
  · rw [exec_decompress_of_not_fits hs hlen hparses (not_and_or.1 hroom)] at h
    cases h
    exact absurd rfl ht

end Decompress

/-! ### The obligations -/

/-- Settles O40: a serialised table is one of the grammar, and its records give the table back. -/
theorem tableRoundTrip : Obligations.TableRoundTrip := fun _ _ hfit h =>
  deserialize_of_parses (parses_serialize hfit h)

/-- Settles O47: decoding symbol by symbol is the loop, whatever the bits read of a symbol. -/
theorem decodingIsTheLoopOfTheRule : Obligations.DecodingIsTheLoopOfTheRule := decodeLoop_eq_decodeBits

/-- Settles O48: the empty buffer matches before any bit is read. -/
theorem zeroLengthCodeReadsNoBit : Obligations.ZeroLengthCodeReadsNoBit := fun _ _ hb hfirst =>
  decodeBits_of_match_nil (matchCode_eq_some_iff.2 ⟨hb, hfirst⟩)

/-- Settles O49: what is emitted is the smallest byte of its code, and no proper beginning of that code is one
of the table. -/
theorem decodingForeignTables : Obligations.DecodingForeignTables := by
  refine ⟨fun T b c code hcb hb hc L s out hout hmem => ?_,
    fun T b c code code' hb hc hprefix hne L s out hout hmem => ?_,
    fun T L s hempty hL => decodeBits_of_empty hempty hL s⟩
  all_goals
    obtain ⟨code'', hmatch, hshorter⟩ := emits_of_decodeBits hout b hmem
    obtain ⟨hcode, hfirst⟩ := matchCode_eq_some_iff.1 hmatch
    obtain rfl := Option.some.inj (hb.symm.trans hcode)
  · exact hfirst c hcb hc
  · exact matchCode_eq_none_iff.1 (hshorter code' hprefix hne) c hc

/-- Settles O50, by induction on the input, and for each byte on the rest of its code. -/
theorem decodingInvertsEncoding : Obligations.DecodingInvertsEncoding := fun _ _ pad hT hx =>
  decodeBits_encodeBytes hT hx pad

/-- Settles O45: the bits and the records are counted by the byte values they are of. -/
theorem containersOfTheBlock : Obligations.ContainersOfTheBlock := by
  intro s t u hs ht hterr hu huerr x T clen S B
  have hx : x.length < 2 ^ 64 := length_lt_of_compress hs ht hterr
  have hobuf : u.obuf = inputContainer x := obuf_of_compress_assemble hs ht hterr hu huerr
  have hB : (inputBits x).length = B := length_encodeBytes T x
  have hS : (serialize T).length = S := length_serialize_inputTable hx
  refine ⟨hobuf, ?_, fun hsingle => ?_⟩
  · rw [hobuf, inputContainer_eq, List.length_append, List.length_append, length_encodeLength, length_pack, hB,
      ← hS, add_assoc]
    rfl
  · rw [← hB, inputBits_of_single hx hsingle, List.length_nil]

/-- Settles O43: each unit command does its part of the commit of COMPRESS, on the state the part before
leaves. -/
theorem compressIsItsUnitCommands : Obligations.CompressIsItsUnitCommands := by
  intro s t hs h ht
  have hx := length_lt_of_compress hs h ht
  obtain ⟨-, hbits, hbytes, rfl⟩ := opCompress_ok.1 (operation_ok_of_exec hs h ht)
  rw [length_pack] at hbytes
  have htail := runCommands_encode_pack hs hx ((bbufAdmits_iff_fits s _).1 hbits)
    ((obufAdmits_iff_fits s _).1 hbytes)
  have hunits := runCommands_append_of_next (rest := [.build, .gentable, .encode, .pack])
    (runCommands_count hs hx)
  rw [runCommands_build_gentable hs, htail, List.append_assoc, List.singleton_append] at hunits
  exact ⟨_, hunits, rfl⟩

/-- Settles O52: each unit command does a step of DECOMPRESS, on the state the step before leaves. -/
theorem decompressIsItsUnitCommands : Obligations.DecompressIsItsUnitCommands := by
  intro s t hs h ht
  obtain ⟨len, ⟨T, p⟩, bits, out, hlen, rfl, hparsed, rfl, hbits, hroom, hout, rfl⟩ :=
    opDecompress_ok.1 (operation_ok_of_exec hs h ht)
  have hunread : s.ibuf.drop (s.ipos + 8 + p) = (unreadOf s).drop (8 + p) := by
    rw [Nat.add_assoc, drop_ibuf_add]
  rw [decodeLength_take] at hroom hout ⊢
  rw [bbufAdmits_iff_fits, length_flatten] at hbits
  rw [State.unread_eq, ← unreadOf, ← hunread] at hbits hout
  rw [runCommands_declen_deserialize hs hlen (parses_of_deserialize hparsed),
    runCommands_flatten_decode (s := { s with
      len := decodeLength (unreadOf s), ct := T, ctValid := true, ipos := s.ipos + 8 + p })
      hs rfl hbits ((obufAdmits_iff_fits s _).1 hroom) hout, State.unread_eq, ← unreadOf, ← hunread]
  rfl

/-- Settles O53: what DECOMPRESS reads of the container is the length, the table and the codes of the input. -/
theorem containerRoundTrip : Obligations.ContainerRoundTrip := by
  intro x s t u hx hs ht hterr hu huerr v z hv _ hz hzerr
  have hcompress := exec_compress_of_runCommands hs ht hterr
  have hobuf : u.obuf = inputContainer x :=
    obuf_of_compress_assemble (s := { s with ibuf := x, ipos := 0 }) hs hcompress hterr hu huerr
  exact decompress_inputContainer hx (s := { v with ibuf := u.obuf, ipos := 0 }) hobuf hv hz hzerr

end Sys2Proof.RoundTrips

/-! Which faults each command can raise, and when it raises CapacityFault (spec/60_exceptions.md rules R150, R157,
R158 and R168). -/

namespace Sys2Proof.Raising

open Sys2Proof.Machine Sys2Proof.Certificates Sys2Proof.Effects Sys2Proof.BitConverter Sys2Proof.CodeTables
  Sys2Proof.Codec Sys2Proof.SystemCommands Sys2Proof.Exceptions Sys2Proof.Invariants

/-! ### The faults an operation can raise (R150) -/

section RaisesOnly

variable {α β : Type} {codes : List (BitVec 8)} {cause : FaultCause}

/-- An operation raises no fault but those with these codes. -/
def RaisesOnly (codes : List (BitVec 8)) (m : Except FaultCause α) : Prop :=
  ∀ cause, m = .error cause → cause.code ∈ codes

theorem raisesOnly_pure (x : α) : RaisesOnly codes (pure x) := fun _ h => absurd h (pure_ne_error x)

theorem raisesOnly_bind {m : Except FaultCause α} {k : α → Except FaultCause β} (hm : RaisesOnly codes m)
    (hk : ∀ x, RaisesOnly codes (k x)) : RaisesOnly codes (m >>= k) := fun cause h =>
  (bind_error.1 h).elim (hm cause) fun ⟨x, _, hx⟩ => hk x cause hx

theorem raisesOnly_require (c : Bool) (h : cause.code ∈ codes) : RaisesOnly codes (require c cause) := by
  rintro cause' herror
  cases c with
  | true => cases herror
  | false => cases herror; exact h

theorem raisesOnly_writeObuf (s : State) (bytes : List Byte) (h : 7#8 ∈ codes) :
    RaisesOnly codes (s.writeObuf bytes) :=
  raisesOnly_bind (raisesOnly_require _ h) fun _ => raisesOnly_pure _

theorem raisesOnly_writeBbuf (s : State) (bits : List Bit) (h : 7#8 ∈ codes) :
    RaisesOnly codes (s.writeBbuf bits) :=
  raisesOnly_bind (raisesOnly_require _ h) fun _ => raisesOnly_pure _

theorem raisesOnly_deserialize (src : List Byte) (h : 2#8 ∈ codes) : RaisesOnly codes (deserialize src) := by
  intro cause herror
  obtain h' | ⟨T, p, -, h'⟩ := deserialize_cases src
  · rw [h'] at herror; cases herror; exact h
  · rw [h'] at herror; cases herror

theorem raisesOnly_decodeBits (T : CodeTable) (n : Nat) (bits : List Bit) (h : 3#8 ∈ codes)
    (h' : 4#8 ∈ codes) : RaisesOnly codes (decodeBits T n bits) := by
  intro cause herror
  obtain rfl | rfl := decodeBits_error herror
  · exact h
  · exact h'

end RaisesOnly

theorem raisesOnly_operation (i : Instr) (s : State) : RaisesOnly (mayRaise i) (operation i s) := by
  cases i with
  | nop | iclr | bclr | eclr | srst | fnew => exact raisesOnly_pure _
  | ipush imm8 => exact raisesOnly_bind (raisesOnly_require _ (.head _)) fun _ => raisesOnly_pure _
  | bpush imm1 => exact raisesOnly_bind (raisesOnly_require _ (.head _)) fun _ => raisesOnly_pure _
  | flatten => exact raisesOnly_bind (raisesOnly_writeBbuf _ _ (.head _)) fun _ => raisesOnly_pure _
  | pack => exact raisesOnly_writeObuf _ _ (.head _)
  | enclen => exact raisesOnly_writeObuf _ _ (.head _)
  | declen => exact raisesOnly_bind (raisesOnly_require _ (.head _)) fun _ => raisesOnly_pure _
  | feed imm8 =>
    exact raisesOnly_bind (raisesOnly_require _ (.head _)) fun _ =>
      raisesOnly_bind (raisesOnly_require _ (.tail _ (.head _))) fun _ => raisesOnly_pure _
  | finalize => exact raisesOnly_bind (raisesOnly_require _ (.head _)) fun _ => raisesOnly_pure _
  | build => exact raisesOnly_bind (raisesOnly_require _ (.head _)) fun _ => raisesOnly_pure _
  | gentable => exact raisesOnly_bind (raisesOnly_require _ (.head _)) fun _ => raisesOnly_pure _
  | serialize =>
    exact raisesOnly_bind (raisesOnly_require _ (.head _)) fun _ =>
      raisesOnly_writeObuf _ _ (.tail _ (.head _))
  | deserialize => exact raisesOnly_bind (raisesOnly_deserialize _ (.head _)) fun _ => raisesOnly_pure _
  | encode =>
    exact raisesOnly_bind (raisesOnly_require _ (.head _)) fun _ =>
      raisesOnly_bind (raisesOnly_require _ (.head _)) fun _ =>
        raisesOnly_bind (raisesOnly_writeBbuf _ _ (.tail _ (.head _))) fun _ => raisesOnly_pure _
  | compress =>
    exact raisesOnly_bind (raisesOnly_require _ (.head _)) fun _ =>
      raisesOnly_bind (raisesOnly_writeBbuf _ _ (.head _)) fun _ =>
        raisesOnly_bind (raisesOnly_writeObuf _ _ (.head _)) fun _ => raisesOnly_pure _
  | assemble =>
    exact raisesOnly_bind (raisesOnly_require _ (.head _)) fun _ =>
      raisesOnly_writeObuf _ _ (.tail _ (.head _))
  | decode =>
    exact raisesOnly_bind (raisesOnly_require _ (by decide)) fun _ =>
      raisesOnly_bind (raisesOnly_require _ (by decide)) fun _ =>
        raisesOnly_bind (raisesOnly_decodeBits _ _ _ (by decide) (by decide)) fun _ => raisesOnly_pure _
  | decompress =>
    exact raisesOnly_bind (raisesOnly_require _ (by decide)) fun _ =>
      raisesOnly_bind (raisesOnly_deserialize _ (by decide)) fun _ =>
        raisesOnly_bind (raisesOnly_writeBbuf _ _ (by decide)) fun _ =>
          raisesOnly_bind (raisesOnly_require _ (by decide)) fun _ =>
            raisesOnly_bind (raisesOnly_decodeBits _ _ _ (by decide) (by decide)) fun _ => raisesOnly_pure _

theorem err_of_exec_mem_mayRaise {i : Instr} {s t : State} (hs : s.err = 0#8) (h : exec i s = .next t) :
    t.err = 0#8 ∨ t.err ∈ mayRaise i := by
  obtain ⟨-, hclear⟩ | ⟨cause, herror, rfl⟩ := exec_cases_of_not_latched hs h
  · exact .inl hclear
  · exact .inr (raisesOnly_operation i s cause herror)

/-! ### The operations that raise CapacityFault (R157, R158) -/

section Capacity

variable {α β : Type} {s : State}

theorem code_eq_seven_iff {cause : FaultCause} : cause.code = 7#8 ↔ cause = .capacity := by
  cases cause <;> decide

/-- A requirement of another fault followed by the rest: the rest raises this one, where the requirement
holds. -/
theorem require_bind_error_of_ne {c : Bool} {cause cause' : FaultCause} {k : Unit → Except FaultCause α}
    (hne : cause ≠ cause') : (require c cause >>= k) = .error cause' ↔ c = true ∧ k () = .error cause' := by
  rw [require_bind]
  cases c <;> simp [hne]

/-- A requirement as the last test of a command. -/
theorem require_pure_error_iff {c : Bool} {cause : FaultCause} {x : α} :
    (require c cause >>= fun _ => pure x) = .error cause ↔ c = false :=
  require_bind_error_iff (pure_ne_error x)

theorem admits_eq_false_iff {c : Capacity} {n : Nat} : capacityAdmits c n = false ↔ ¬ fits c n := by
  rw [← capacityAdmits_iff_fits, Bool.not_eq_true]

/-- A checked write followed by the rest raises CapacityFault when the bits do not fit or the rest does. -/
theorem writeBbuf_bind_error_iff {bits : List Bit} {k : State → Except FaultCause α} :
    (s.writeBbuf bits >>= k) = .error .capacity ↔
      ¬ fits s.caps.bbuf bits.length ∨ k (s.putBbuf bits) = .error .capacity := by
  by_cases h : fits s.caps.bbuf bits.length
  · rw [writeBbuf_of_fits h]
    exact (or_iff_right (not_not.2 h)).symm
  · rw [writeBbuf_of_not_fits h]
    exact iff_of_true rfl (.inl h)

theorem writeObuf_bind_error_iff {bytes : List Byte} {k : State → Except FaultCause α} :
    (s.writeObuf bytes >>= k) = .error .capacity ↔
      ¬ fits s.caps.obuf bytes.length ∨ k (s.putObuf bytes) = .error .capacity := by
  by_cases h : fits s.caps.obuf bytes.length
  · rw [writeObuf_of_fits h]
    exact (or_iff_right (not_not.2 h)).symm
  · rw [writeObuf_of_not_fits h]
    exact iff_of_true rfl (.inl h)

theorem writeObuf_error_iff {bytes : List Byte} :
    s.writeObuf bytes = .error .capacity ↔ ¬ fits s.caps.obuf bytes.length := by
  rw [State.writeObuf, require_pure_error_iff]
  exact admits_eq_false_iff

/-- The checked write of BBUF as the last test of a command. -/
theorem writeBbuf_pure_error_iff {bits : List Bit} {g : State → α} :
    (s.writeBbuf bits >>= fun t => pure (g t)) = .error .capacity ↔ ¬ fits s.caps.bbuf bits.length :=
  writeBbuf_bind_error_iff.trans (or_iff_left (pure_ne_error _))

theorem decodeBits_ne_capacity (T : CodeTable) (n : Nat) (bits : List Bit) :
    decodeBits T n bits ≠ .error .capacity := fun h =>
  (decodeBits_error h).elim nofun nofun

/-- Reading a table raises no CapacityFault, so the rest does, on the table read. -/
theorem deserialize_bind_error_iff {src : List Byte} {k : CodeTable × Nat → Except FaultCause α} :
    (deserialize src >>= k) = .error .capacity ↔ ∃ T p, Parses src T p ∧ k (T, p) = .error .capacity := by
  obtain herror | ⟨T, p, hparses, hok⟩ := deserialize_cases src
  · rw [herror]
    refine iff_of_false nofun fun ⟨T, p, hparses, _⟩ => ?_
    rw [deserialize_of_parses hparses] at herror
    cases herror
  · rw [hok]
    refine ⟨fun h => ⟨T, p, hparses, h⟩, fun ⟨T', p', hparses', h⟩ => ?_⟩
    rw [deserialize_of_parses hparses'] at hok
    cases hok
    exact h

theorem opFeed_error_capacity_iff {b : Byte} : opFeed b s = .error .capacity ↔
    s.fcOpen = true ∧ (fileGet s.freq b).toNat = 2 ^ 64 - 1 := by
  have hlt := (fileGet s.freq b).isLt
  rw [opFeed, require_bind_error_of_ne (by decide), require_pure_error_iff,
    decide_eq_false_iff_not, Config.max64]
  exact and_congr_right' (by omega)

theorem opEncode_error_capacity_iff : opEncode s = .error .capacity ↔ s.ctValid = true ∧
    (∀ b ∈ unreadOf s, fileGet s.ct b ≠ none) ∧
    ¬ fits s.caps.bbuf (encodeBytes s.ct (unreadOf s)).length := by
  rw [opEncode, require_bind_error_of_ne (by decide), require_bind_error_of_ne (by decide), allEncodable_iff,
    writeBbuf_pure_error_iff]
  rfl

theorem opCompress_error_capacity_iff : opCompress s = .error .capacity ↔
    (unreadOf s).length > 2 ^ 64 - 1 ∨ ¬ fits s.caps.bbuf (inputBits (unreadOf s)).length ∨
      ¬ fits s.caps.obuf (((inputBits (unreadOf s)).length + 7) / 8) := by
  rw [opCompress_eq, require_bind_error_or, writeBbuf_bind_error_iff, writeObuf_bind_error_iff,
    or_iff_left (pure_ne_error _), length_pack, decide_eq_false_iff_not, not_le]
  rfl

theorem opDecode_error_capacity_iff : opDecode s = .error .capacity ↔
    s.ctValid = true ∧ ¬ fits s.caps.obuf s.len.toNat := by
  rw [opDecode, require_bind_error_of_ne (by decide), require_bind_error_iff
    (bind_ne_error (decodeBits_ne_capacity _ _ _) fun _ => pure_ne_error _)]
  exact and_congr_right' admits_eq_false_iff

theorem opDecompress_error_capacity_iff : opDecompress s = .error .capacity ↔
    ∃ T p, 8 ≤ (unreadOf s).length ∧ Parses ((unreadOf s).drop 8) T p ∧
      (¬ fits s.caps.bbuf (8 * ((unreadOf s).length - 8 - p)) ∨
        ¬ fits s.caps.obuf (decodeLength ((unreadOf s).take 8)).toNat) := by
  rw [opDecompress, require_bind_error_of_ne (by decide), decide_eq_true_iff, State.unread_eq, ← unreadOf,
    deserialize_bind_error_iff]
  simp only [← exists_and_left]
  refine exists_congr fun T => exists_congr fun p => and_congr_right' (and_congr_right' ?_)
  rw [writeBbuf_bind_error_iff, ← payloadBits, length_payloadBits, require_bind_error_iff
    (bind_ne_error (decodeBits_ne_capacity _ _ _) fun _ => pure_ne_error _)]
  exact or_congr_right admits_eq_false_iff

theorem operation_error_capacity_iff (i : Instr) (s : State) :
    operation i s = .error .capacity ↔ capacityFails i s := by
  cases i with
  | nop | iclr | bclr | eclr | srst | fnew => exact iff_of_false (pure_ne_error _) id
  | declen | finalize | build | gentable =>
    exact iff_of_false (bind_ne_error (require_ne_error _ (by decide)) fun _ => pure_ne_error _) id
  | deserialize =>
    exact iff_of_false
      (fun h => by obtain ⟨_, _, _, hk⟩ := deserialize_bind_error_iff.1 h; exact pure_ne_error _ hk) id
  | ipush imm8 | bpush imm1 => exact require_pure_error_iff.trans admits_eq_false_iff
  | feed imm8 => exact opFeed_error_capacity_iff
  | flatten =>
    refine Iff.trans writeBbuf_pure_error_iff ?_
    rw [length_flatten, State.unread_length]
    rfl
  | pack => exact writeObuf_error_iff.trans (by rw [length_pack]; rfl)
  | enclen => exact writeObuf_error_iff.trans (by rw [length_encodeLength]; rfl)
  | serialize =>
    exact (require_bind_error_of_ne (by decide)).trans (and_congr_right' writeObuf_error_iff)
  | encode => exact opEncode_error_capacity_iff
  | compress => exact opCompress_error_capacity_iff
  | assemble =>
    refine (require_bind_error_of_ne (by decide)).trans (and_congr_right' (writeObuf_error_iff.trans ?_))
    rw [containerOf, List.length_append, List.length_append, length_encodeLength]
    rfl
  | decode => exact opDecode_error_capacity_iff
  | decompress => exact opDecompress_error_capacity_iff

end Capacity

/-! ### The obligations -/

/-- Settles O13, by the tests each operation is made of. -/
theorem commandsRaiseOnlyTheirFaults : Obligations.CommandsRaiseOnlyTheirFaults := by
  refine ⟨fun _ _ _ => err_of_exec_mem_mayRaise, fun i s t hi hs h => ?_⟩
  refine (err_of_exec_mem_mayRaise hs h).imp_right fun hmem => ?_
  simp only [List.mem_cons, List.not_mem_nil, or_false] at hi
  obtain rfl | rfl | rfl | rfl | rfl | rfl := hi <;>
    simp only [mayRaise, List.mem_cons, List.not_mem_nil, or_false] at hmem <;> tauto

/-- Settles O15: a command leaves code 7 exactly when its operation raises CapacityFault. -/
theorem capacityFaultExactlyAsListed : Obligations.CapacityFaultExactlyAsListed := by
  intro i s t hs h
  rw [← operation_error_capacity_iff]
  obtain ⟨hok, hclear⟩ | ⟨cause, herror, rfl⟩ := exec_cases_of_not_latched hs h
  · rw [hok, hclear]
    exact iff_of_false (by decide) nofun
  · rw [herror, Except.error.injEq]
    exact code_eq_seven_iff

end Sys2Proof.Raising

/-! Words as commands, both ways, and the words an assembler line stands for (spec/30_encoding.md rules R60 to
R67). -/

namespace Sys2Proof.Encoding

open Sys2Proof.Machine Sys2Proof.Certificates

/-! ### Assembler lines (R67) -/

theorem ipushAction_toNat (b : Byte) : ipushAction b.toNat = .command (0x02#8 ++ b) := by
  rw [ipushAction, BitVec.ofNat_toNat, BitVec.setWidth_eq]
  rfl

theorem feedAction_toNat (b : Byte) : feedAction b.toNat = .command (0x21#8 ++ b) := by
  rw [feedAction, BitVec.ofNat_toNat, BitVec.setWidth_eq]
  rfl

theorem bpushAction_toNat (t : Bit) :
    bpushAction t.toNat = .command (if t then 0x0401#16 else 0x0400#16) := by
  cases t <;> rfl

/-! ### The obligations -/

/-- Settles O4: `encode_of_decode` and `decode_encode` are the two directions. -/
theorem decodeIsTheInverseOfEncode : Obligations.DecodeIsTheInverseOfEncode := fun _ _ => decode_eq_some_iff

/-- Settles O1: each legal word is the encoding of its command, and the others have no row. -/
theorem decodesTheExampleWords : Obligations.DecodesTheExampleWords := by
  unfold Obligations.DecodesTheExampleWords
  decide

/-- Settles O5: a line is its actions one by one, and an operand is the low byte of its word. -/
theorem pseudoInstructionsExpand : Obligations.PseudoInstructionsExpand := by
  refine ⟨fun bytes => ?_, fun bits => ?_, fun bytes => ?_, fun bytes => ?_, rfl⟩
  all_goals
    simp only [lineActions, List.map_map, Function.comp_def, ipushAction_toNat, bpushAction_toNat,
      feedAction_toNat]
  all_goals rfl

end Sys2Proof.Encoding

/-! The host's side: the step of each host action, the frame of every command, and what the host reads
(spec/10_state.md rules R12 to R28). -/

namespace Sys2Proof.Hosts

open Sys2Proof.Machine Sys2Proof.Certificates Sys2Proof.Effects Sys2Proof.Codec Sys2Proof.SystemCommands
  Sys2Proof.Exceptions

/-! ### Steps -/

/-- Settles O6: the step takes the action off the list, and the word it writes decodes. -/
theorem stepRunsTheDecodedCommand : Obligations.StepRunsTheDecodedCommand := by
  refine ⟨fun s w i rest hq hw => ?_, fun s n i hw => ?_⟩
  · rw [step_of_hostQueue hq]
    exact execWord_of_decode hw _
  · have hword : BitVec.ofNat 16 (n % 2 ^ 16) = BitVec.ofNat 16 n := BitVec.eq_of_toNat_eq (by simp)
    rw [← hword] at hw
    exact execWord_of_decode hw s

/-- Settles O9, by the kind of the action and the register it writes. -/
theorem hostActionsOtherThanCommandWrites : Obligations.HostActionsOtherThanCommandWrites := by
  refine ⟨fun s v rest hq => step_of_hostQueue hq, fun s w rest hq => ?_, fun s n v rest hq hlen hcmd => ?_,
    fun s n rest hq => step_of_hostQueue hq, fun s e rest hq => step_of_hostQueue hq, fun s rest hq =>
      ⟨_, step_of_hostQueue hq, holdsResetValues_restart { s with hostQueue := rest }, rfl, rfl⟩,
    fun s hq => ?_⟩
  · have hword : (w.setWidth 64).setWidth 16 = w := by simp
    rw [step_of_hostQueue hq, step_of_hostQueue rfl]
    exact congrArg (execWord · _) hword
  · rw [step_of_hostQueue hq, hostAct, hostWriteReg, if_neg hlen, if_neg hcmd]
  · rw [step, nextAction, hq]

/-! ### What a command leaves (R12 to R26) -/

/-- The frame of a command that is executed, with the latch left aside: each piece of state is as it was unless
the command is one that writes it. -/
structure Frame (i : Instr) (s t : State) : Prop where
  ibuf : (∀ b, i ≠ .ipush b) → i ∉ [Instr.iclr, .srst] → t.ibuf = s.ibuf
  ipos : i ∉ [Instr.iclr, .srst, .declen, .deserialize, .flatten, .encode, .compress, .decompress] →
    t.ipos = s.ipos
  obuf : i ∉ [Instr.pack, .enclen, .serialize, .compress, .assemble, .decode, .decompress, .srst] →
    t.obuf = s.obuf
  bbuf : (∀ b, i ≠ .bpush b) → i ∉ [Instr.flatten, .encode, .compress, .decompress, .bclr, .srst] →
    t.bbuf = s.bbuf
  len : i ∉ [Instr.declen, .decompress, .compress, .srst] → t.len = s.len
  freq : (∀ b, i ≠ .feed b) → i ∉ [Instr.fnew, .compress, .srst] → t.freq = s.freq
  tree : i ∉ [Instr.build, .compress, .srst] → t.nodes = s.nodes ∧ t.root = s.root
  ct : i ∉ [Instr.gentable, .deserialize, .compress, .assemble, .decompress, .srst] → t.ct = s.ct
  caps : t.caps = s.caps
  hostQueue : t.hostQueue = s.hostQueue
  fcOpen_set : t.fcOpen = true → s.fcOpen = false → i ∈ [Instr.fnew, .srst]
  fcOpen_cleared : t.fcOpen = false → s.fcOpen = true → i ∈ [Instr.finalize, .compress]
  treeValid_set : t.treeValid = true → s.treeValid = false → i ∈ [Instr.build, .compress]
  treeValid_cleared : t.treeValid = false → s.treeValid = true → i = .srst
  ctValid_set : t.ctValid = true → s.ctValid = false →
    i ∈ [Instr.gentable, .compress, .assemble, .deserialize, .decompress]
  ctValid_cleared : t.ctValid = false → s.ctValid = true → i = .srst

theorem frame_of_operation {i : Instr} {s t : State} (h : operation i s = .ok t) : Frame i s t := by
  cases i with
  | nop | iclr | bclr | eclr | srst | fnew =>
    obtain rfl := pure_ok.1 h
    constructor <;> simp +contextual
  | ipush imm8 => obtain ⟨-, rfl⟩ := opIpush_ok.1 h; constructor <;> simp +contextual
  | bpush imm1 => obtain ⟨-, rfl⟩ := opBpush_ok.1 h; constructor <;> simp +contextual
  | flatten => obtain ⟨-, rfl⟩ := opFlatten_ok.1 h; constructor <;> simp +contextual
  | pack | enclen => obtain ⟨-, rfl⟩ := writeObuf_ok.1 h; constructor <;> simp +contextual
  | declen => obtain ⟨-, rfl⟩ := opDeclen_ok.1 h; constructor <;> simp +contextual
  | feed imm8 => obtain ⟨-, -, rfl⟩ := opFeed_ok.1 h; constructor <;> simp +contextual
  | finalize => obtain ⟨-, rfl⟩ := opFinalize_ok.1 h; constructor <;> simp +contextual
  | build => obtain ⟨-, rfl⟩ := opBuild_ok.1 h; constructor <;> simp +contextual
  | gentable => obtain ⟨-, rfl⟩ := opGentable_ok.1 h; constructor <;> simp +contextual
  | serialize => obtain ⟨-, -, rfl⟩ := opSerialize_ok.1 h; constructor <;> simp +contextual
  | deserialize => obtain ⟨_, -, rfl⟩ := opDeserialize_ok.1 h; constructor <;> simp +contextual
  | encode => obtain ⟨-, -, -, rfl⟩ := opEncode_ok.1 h; constructor <;> simp +contextual
  | compress => obtain ⟨-, -, -, rfl⟩ := opCompress_ok.1 h; constructor <;> simp +contextual [withInputTree]
  | assemble => obtain ⟨-, -, rfl⟩ := opAssemble_ok.1 h; constructor <;> simp +contextual
  | decode => obtain ⟨-, -, _, -, rfl⟩ := opDecode_ok.1 h; constructor <;> simp +contextual
  | decompress =>
    obtain ⟨_, _, _, _, -, -, -, -, -, -, -, rfl⟩ := opDecompress_ok.1 h
    constructor <;> simp +contextual

/-- A discarded command and a fault leave every piece but the latch as it was (R159, R160). -/
theorem frame_of_exec {i : Instr} {s t : State} (h : exec i s = .next t) : Frame i s t := by
  obtain rfl | hok | ⟨cause, rfl⟩ := exec_cases h
  · constructor <;> simp +contextual
  · exact frame_of_operation hok
  · constructor <;> simp +contextual [faulted]

theorem latch_of_exec {i : Instr} {s t : State} (h : exec i s = .next t) (hi : i ∉ [Instr.eclr, .srst])
    (hs : s.err ≠ 0#8) : t.err = s.err ∧ t.errcmd = s.errcmd := by
  simp only [List.mem_cons, List.not_mem_nil, or_false, not_or] at hi
  obtain ⟨heclr, hsrst⟩ := hi
  rw [exec_of_latched hs heclr hsrst] at h
  cases h
  exact ⟨rfl, rfl⟩

/-- Settles O55, by the frame of each command. -/
theorem onlyListedCommandsWriteTheBuffers : Obligations.OnlyListedCommandsWriteTheBuffers := fun _ _ _ h =>
  ⟨(frame_of_exec h).ibuf, (frame_of_exec h).ipos, (frame_of_exec h).obuf, (frame_of_exec h).bbuf⟩

/-- Settles O56, by the frame of each command and, for the latch, the discarding of commands under it. -/
theorem onlyListedCommandsWriteTheRegisters : Obligations.OnlyListedCommandsWriteTheRegisters :=
  fun _ _ _ h => ⟨(frame_of_exec h).len, (frame_of_exec h).freq, (frame_of_exec h).tree,
    (frame_of_exec h).ct, latch_of_exec h, (frame_of_exec h).caps, (frame_of_exec h).hostQueue⟩

/-- Settles O57, by the frame of each command. -/
theorem onlyListedCommandsWriteTheFlags : Obligations.OnlyListedCommandsWriteTheFlags := fun _ _ _ h =>
  ⟨(frame_of_exec h).fcOpen_set, (frame_of_exec h).fcOpen_cleared, (frame_of_exec h).treeValid_set,
    (frame_of_exec h).treeValid_cleared, (frame_of_exec h).ctValid_set, (frame_of_exec h).ctValid_cleared⟩

/-! ### Host reads (R25, R27) -/

section Reads

variable (s : State)

/-- The bits of STATUS: ERRF, FC_OPEN, TREE_VALID, CT_VALID, and 0 (R27). -/
theorem getLsbD_status (k : Nat) :
    s.status.getLsbD k = [s.latched, s.fcOpen, s.treeValid, s.ctValid].getD k false := by
  rw [State.status]
  generalize s.latched = e, s.fcOpen = f, s.treeValid = t, s.ctValid = c
  by_cases hk : k < 8
  · revert e f t c
    interval_cases k <;> decide
  · rw [BitVec.getLsbD_of_ge _ _ (not_lt.1 hk), List.getD_eq_default]
    exact (by decide : 4 ≤ 8).trans (not_lt.1 hk)

theorem memRead_eq_none {α : Type} {buf : List α} {i : Nat} (h : buf.length ≤ i) : memRead buf i = none :=
  List.getElem?_eq_none h

theorem memRead_eq_getElem {α : Type} {buf : List α} {i : Nat} (h : i < buf.length) :
    memRead buf i = some buf[i] :=
  List.getElem?_eq_getElem h

theorem hostReadElement_freq (b : Byte) :
    hostReadElement (.freq b.toNat) s = some (.count (fileGet s.freq b)) := by
  rw [hostReadElement, Vector.getElem?_eq_getElem b.isLt]
  rfl

theorem hostReadElement_node (i : NodeId) (htree : s.treeValid = true) :
    hostReadElement (.node i.val) s = some (nodeFields (nodeGet s.nodes i)) := by
  rw [hostReadElement, if_pos htree, Vector.getElem?_eq_getElem i.isLt]
  rfl

theorem hostReadElement_ct (b : Byte) (htable : s.ctValid = true) :
    hostReadElement (.ct b.toNat) s = some (entryFields (fileGet s.ct b)) := by
  rw [hostReadElement, if_pos htable, Vector.getElem?_eq_getElem b.isLt]
  rfl

theorem hostReadElement_node_refused {i : Nat} (h : 511 ≤ i ∨ s.treeValid = false) :
    hostReadElement (.node i) s = none := by
  rw [hostReadElement]
  split
  case isTrue htree =>
    rw [Vector.getElem?_eq_none (h.resolve_right (by simp [htree]))]
    rfl
  case isFalse => rfl

theorem hostReadElement_ct_refused {i : Nat} (h : 256 ≤ i ∨ s.ctValid = false) :
    hostReadElement (.ct i) s = none := by
  rw [hostReadElement]
  split
  case isTrue htable =>
    rw [Vector.getElem?_eq_none (h.resolve_right (by simp [htable]))]
    rfl
  case isFalse => rfl

/-- Bit `j` of CODE is code bit `j`, and 0 above CLEN (R23). -/
theorem getLsbD_entryCode {code : Code} (h : code.length ≤ 255) (j : Nat) :
    (entryCode (some code)).getLsbD j = code.getD j false := by
  rw [entryCode, BitVec.getLsbD_ofNat, Option.getD_some, BitConverter.testBit_natOfBitsLE]
  by_cases hj : j < 255
  · simp [hj]
  · rw [List.getD_eq_default _ _ (by omega), Bool.and_false]

/-- The entry a code is read as: VALID, its length as CLEN, its bits as CODE (R23). -/
theorem exists_entryFields_eq {code : Code} (h : code.length ≤ 255) : ∃ clen field,
    entryFields (some code) = .entry true clen field ∧ clen.toNat = code.length ∧
      ∀ j, field.getLsbD j = code.getD j false :=
  ⟨_, _, rfl, by simpa [entryClen] using Nat.lt_succ_of_le h, getLsbD_entryCode h⟩

/-- The fields a node is read as, by its kind (R21). -/
theorem hostReadElement_node_cases (i : NodeId) (htree : s.treeValid = true) :
    (nodeGet s.nodes i = .unused →
      hostReadElement (.node i.val) s = some (.node 0#2 0#8 0#72 0#9 0#9)) ∧
    (∀ v w, nodeGet s.nodes i = .leaf v w →
      hostReadElement (.node i.val) s = some (.node 1#2 v w 0#9 0#9)) ∧
    (∀ w l r, nodeGet s.nodes i = .internal w l r → ∃ left right : BitVec 9,
      left.toNat = l.val ∧ right.toNat = r.val ∧
      hostReadElement (.node i.val) s = some (.node 2#2 0#8 w left right)) ∧
    (nodeGet s.nodes i = .placeholder →
      hostReadElement (.node i.val) s = some (.node 3#2 0#8 0#72 0#9 0#9)) := by
  have hid (j : NodeId) : (BitVec.ofNat 9 j.val).toNat = j.val :=
    Nat.mod_eq_of_lt (j.isLt.trans (by decide))
  rw [hostReadElement_node s i htree]
  refine ⟨fun hi => ?_, fun v w hi => ?_, fun w l r hi => ⟨_, _, hid l, hid r, ?_⟩, fun hi => ?_⟩
  all_goals
    rw [hi]
    rfl

/-- CMD and the numbers not in the table are refused. -/
theorem hostReadReg_refused {n : Nat} (h : 9 ≤ n) : hostReadReg n s = none := by
  obtain ⟨n, rfl⟩ := Nat.exists_eq_add_of_le' h
  rfl

theorem hostReadElement_freq_refused {i : Nat} (h : 256 ≤ i) : hostReadElement (.freq i) s = none := by
  rw [hostReadElement, Vector.getElem?_eq_none h]
  rfl

end Reads

/-- Settles O60, register by register and space by space. -/
theorem hostReadsOfRegistersAndElements : Obligations.HostReadsOfRegistersAndElements := by
  intro s
  have hstatus := getLsbD_status s
  refine ⟨⟨s.status, rfl, ?errf, hstatus 1, hstatus 2, hstatus 3, fun k hk => ?zeros⟩,
    rfl, rfl, rfl, rfl, rfl, rfl, rfl, fun htree => if_pos htree,
    fun htree => if_neg (Bool.eq_false_iff.1 htree),
    fun n => hostReadReg_refused s,
    fun _ h => congrArg (Option.map _) (memRead_eq_none h),
    fun _ h => congrArg (Option.map _) (memRead_eq_getElem h),
    fun _ h => congrArg (Option.map _) (memRead_eq_none h),
    fun _ h => congrArg (Option.map _) (memRead_eq_getElem h),
    fun _ h => congrArg (Option.map _) (memRead_eq_none h),
    fun _ h => congrArg (Option.map _) (memRead_eq_getElem h),
    hostReadElement_freq s,
    fun i h => ⟨hostReadElement_freq_refused s h, hostReadElement_ct_refused s (.inl h)⟩,
    fun i => hostReadElement_node_refused s, hostReadElement_node_cases s,
    fun i h => hostReadElement_ct_refused s (.inr h), fun b htable => ?entry⟩
  case errf => rw [hstatus 0, ← State.latched_iff]; rfl
  case zeros => rw [hstatus k, List.getD_eq_default _ _ hk]
  case entry =>
    rw [hostReadElement_ct s b htable]
    refine ⟨fun hb => by rw [hb]; rfl, fun code hb hcode => ?_⟩
    obtain ⟨clen, field, hfields, hclen, hfield⟩ := exists_entryFields_eq hcode
    exact ⟨clen, field, by rw [hb, hfields], hclen, hfield⟩

end Sys2Proof.Hosts
